-- ==== Sys2Proof/Word.lean ====
section
/-! DEFINITION. The widths of the machine (00_scope.md R4): a 4-bit register, cell and literal, an 8-bit data address,
a 12-bit instruction word and a 12-bit program address. -/

namespace Sys2Proof

/-- A register, a data-memory cell or a literal N: 4 bits (R4, R50). -/
abbrev Nibble := BitVec 4

/-- The number of a general register, R0 to R15 (R21, R82). -/
abbrev RegNum := BitVec 4

/-- A data-memory address or an 8-bit literal NN (R4, R32). -/
abbrev DataAddr := BitVec 8

/-- An instruction word `iw[11:0]` (R80). -/
abbrev Word := BitVec 12

/-- A program-memory address, the width of the program counter (R24). -/
abbrev ProgAddr := BitVec 12

end Sys2Proof
end

