-- ==== Sys2Proof/Syntax.lean ====
section
/-! DEFINITION. The 31 instructions of the CODING table (30_encoding.md R83, R84), one constructor per row of
spec/opcode_table.json. Operands are held as R86 forms them: a literal or register number as its bits, the counts of EXR
and SKIP as the numbers they mean. -/

namespace Sys2Proof

/-- The operand RG of the bit instructions (R171): R0, R1, R2 or the special register RS. -/
inductive Rg where
  | r0 | r1 | r2 | rs
  deriving DecidableEq, Repr

/-- The condition F of SKIP (R178). -/
inductive Cond where
  | c | nc | z | nz
  deriving DecidableEq, Repr

/-- The instructions. -/
inductive Instr where
  /-- ADD RX,RY (R101). -/
  | addRxRy (x y : RegNum)
  /-- ADC RX,RY (R102). -/
  | adcRxRy (x y : RegNum)
  /-- SUB RX,RY (R103). -/
  | subRxRy (x y : RegNum)
  /-- SBB RX,RY (R104). -/
  | sbbRxRy (x y : RegNum)
  /-- OR RX,RY (R105). -/
  | orRxRy (x y : RegNum)
  /-- AND RX,RY (R106). -/
  | andRxRy (x y : RegNum)
  /-- XOR RX,RY (R107). -/
  | xorRxRy (x y : RegNum)
  /-- MOV RX,RY (R120). -/
  | movRxRy (x y : RegNum)
  /-- MOV RX,N (R121). -/
  | movRxN (x : RegNum) (n : Nibble)
  /-- MOV [XY],R0 (R122). -/
  | movXyR0 (x y : RegNum)
  /-- MOV R0,[XY] (R123). -/
  | movR0Xy (x y : RegNum)
  /-- MOV [NN],R0 (R124). -/
  | movNnR0 (nn : DataAddr)
  /-- MOV R0,[NN] (R125). -/
  | movR0Nn (nn : DataAddr)
  /-- MOV PC,NN, also spelled LPC NN (R126). -/
  | movPcNn (nn : BitVec 8)
  /-- JR NN, NN two's complement (R140). -/
  | jr (nn : BitVec 8)
  /-- CP R0,N (R150). -/
  | cp (n : Nibble)
  /-- ADD R0,N (R151). -/
  | addR0N (n : Nibble)
  /-- INC RY (R152). -/
  | inc (y : RegNum)
  /-- DEC RY (R153). -/
  | dec (y : RegNum)
  /-- DSZ RY (R154). -/
  | dsz (y : RegNum)
  /-- OR R0,N (R155). -/
  | orR0N (n : Nibble)
  /-- AND R0,N (R156). -/
  | andR0N (n : Nibble)
  /-- XOR R0,N (R157). -/
  | xorR0N (n : Nibble)
  /-- EXR N, with the count n = 1 to 16 that N means (R170; the field 0000 is n = 16, R91). -/
  | exr (n : Nat)
  /-- BIT RG,M (R172). -/
  | bit (g : Rg) (m : BitVec 2)
  /-- BSET RG,M (R173). -/
  | bset (g : Rg) (m : BitVec 2)
  /-- BCLR RG,M (R174). -/
  | bclr (g : Rg) (m : BitVec 2)
  /-- BTG RG,M (R175). -/
  | btg (g : Rg) (m : BitVec 2)
  /-- RRC RY (R176). -/
  | rrc (y : RegNum)
  /-- RET R0,N (R177). -/
  | ret (n : Nibble)
  /-- SKIP F,M, with the count m = 1 to 4 that M means (R178; the field 00 is m = 4, R91). -/
  | skip (f : Cond) (m : Nat)
  deriving DecidableEq, Repr

/-- The names of R10 to R15 (R22). -/
def RegNum.out : RegNum := 10
@[inherit_doc RegNum.out] def RegNum.inp : RegNum := 11
@[inherit_doc RegNum.out] def RegNum.jsr : RegNum := 12
@[inherit_doc RegNum.out] def RegNum.pcl : RegNum := 13
@[inherit_doc RegNum.out] def RegNum.pcm : RegNum := 14
@[inherit_doc RegNum.out] def RegNum.pch : RegNum := 15

/-- The names the source gives to operations that are one real instruction (R92): SL RY, RLC RY, SET C, CLEAR C, TOGGLE C,
and LPC NN, the second spelling of MOV PC,NN. -/
def Instr.sl (y : RegNum) : Instr := .addRxRy y y
@[inherit_doc Instr.sl] def Instr.rlc (y : RegNum) : Instr := .adcRxRy y y
@[inherit_doc Instr.sl] def Instr.setC : Instr := .orR0N 0
@[inherit_doc Instr.sl] def Instr.clearC : Instr := .andR0N 15
@[inherit_doc Instr.sl] def Instr.toggleC : Instr := .xorR0N 0
@[inherit_doc Instr.sl] def Instr.lpc (nn : BitVec 8) : Instr := .movPcNn nn

/-- The far jump idiom to the program address `h : m : l` (R92, R130): MOV PC,0xhm then MOV PCL,l. -/
def Instr.farJump (h m l : Nibble) : List Instr :=
  [.movPcNn (h ++ m), .movRxN RegNum.pcl l]

/-- The far call idiom to the program address `h : m : l` (R130): MOV PC,0xhm then MOV JSR,l. -/
def Instr.farCall (h m l : Nibble) : List Instr :=
  [.movPcNn (h ++ m), .movRxN RegNum.jsr l]

end Sys2Proof
end

