-- ==== Sys2Proof/WellFormed.lean ====
section
/-! DEFINITION. Which instruction terms some word encodes. Every field value of every format is defined (30_encoding.md
R87), so the only checks are the ranges of the two counts (R91): EXR 1 to 16 and SKIP 1 to 4. -/

namespace Sys2Proof

/-- Whether the term is an instruction that a 12-bit word stands for (R86, R91). -/
def Instr.wellFormed : Instr → Bool
  | .exr n => decide (1 ≤ n) && decide (n ≤ 16)
  | .skip _ m => decide (1 ≤ m) && decide (m ≤ 4)
  | .addRxRy _ _ | .adcRxRy _ _ | .subRxRy _ _ | .sbbRxRy _ _ | .orRxRy _ _ | .andRxRy _ _ | .xorRxRy _ _
  | .movRxRy _ _ | .movRxN _ _ | .movXyR0 _ _ | .movR0Xy _ _ | .movNnR0 _ | .movR0Nn _ | .movPcNn _ | .jr _
  | .cp _ | .addR0N _ | .inc _ | .dec _ | .dsz _ | .orR0N _ | .andR0N _ | .xorR0N _
  | .bit _ _ | .bset _ _ | .bclr _ _ | .btg _ _ | .rrc _ | .ret _ => true

end Sys2Proof
end

