-- ==== Sys2Proof/Decode.lean ====
section
/-! DEFINITION. Decoding and encoding (30_encoding.md R80 to R87). Every 12-bit word is an instruction (R87), so `decode` is
total and has nothing to reject. -/

namespace Sys2Proof

/-- `iw[11:8]`, the primary opcode (R81). -/
def Word.op (iw : Word) : Nibble := iw.extractLsb' 8 4

/-- `iw[7:4]`: the field X, or the secondary opcode `op2` (R81, R82). -/
def Word.fieldX (iw : Word) : Nibble := iw.extractLsb' 4 4

/-- `iw[3:0]`: the field Y or the literal N (R82). -/
def Word.fieldY (iw : Word) : Nibble := iw.extractLsb' 0 4

/-- `iw[7:0]`: the literal NN (R82). -/
def Word.fieldNn (iw : Word) : BitVec 8 := iw.extractLsb' 0 8

/-- `iw[1:0]`: the field M of the bit instructions and of SKIP (R82). -/
def Word.fieldM (iw : Word) : BitVec 2 := iw.extractLsb' 0 2

/-- `iw[3:2]`: the field G or F (R82). -/
def Word.fieldG (iw : Word) : BitVec 2 := iw.extractLsb' 2 2

/-- The operand that the field G selects (R86, R171). -/
def Rg.ofField (g : BitVec 2) : Rg :=
  match g.toNat with
  | 0 => .r0
  | 1 => .r1
  | 2 => .r2
  | _ => .rs -- 3

/-- The condition that the field F selects (R86, R178). -/
def Cond.ofField (f : BitVec 2) : Cond :=
  match f.toNat with
  | 0 => .c
  | 1 => .nc
  | 2 => .z
  | _ => .nz -- 3

/-- The count that the literal of EXR means: "N=0 means N=16" (R86, R170). -/
def exrCount (n : Nibble) : Nat := if n = 0 then 16 else n.toNat

/-- The count that the field M of SKIP means: "if M=0, then skip 4 instructions" (R86, R178). -/
def skipCount (m : BitVec 2) : Nat := if m = 0 then 4 else m.toNat

/-- The rows of R84, for a word whose `iw[11:8]` is 0000. -/
def decodeSecondary (iw : Word) : Instr :=
  match iw.fieldX.toNat with
  | 0x0 => .cp iw.fieldY
  | 0x1 => .addR0N iw.fieldY
  | 0x2 => .inc iw.fieldY
  | 0x3 => .dec iw.fieldY
  | 0x4 => .dsz iw.fieldY
  | 0x5 => .orR0N iw.fieldY
  | 0x6 => .andR0N iw.fieldY
  | 0x7 => .xorR0N iw.fieldY
  | 0x8 => .exr (exrCount iw.fieldY)
  | 0x9 => .bit (Rg.ofField iw.fieldG) iw.fieldM
  | 0xA => .bset (Rg.ofField iw.fieldG) iw.fieldM
  | 0xB => .bclr (Rg.ofField iw.fieldG) iw.fieldM
  | 0xC => .btg (Rg.ofField iw.fieldG) iw.fieldM
  | 0xD => .rrc iw.fieldY
  | 0xE => .ret iw.fieldY
  | _ => .skip (Cond.ofField iw.fieldG) (skipCount iw.fieldM) -- 0xF

/-- The instruction a word stands for (R85). -/
def decode (iw : Word) : Instr :=
  match iw.op.toNat with
  | 0x0 => decodeSecondary iw
  | 0x1 => .addRxRy iw.fieldX iw.fieldY
  | 0x2 => .adcRxRy iw.fieldX iw.fieldY
  | 0x3 => .subRxRy iw.fieldX iw.fieldY
  | 0x4 => .sbbRxRy iw.fieldX iw.fieldY
  | 0x5 => .orRxRy iw.fieldX iw.fieldY
  | 0x6 => .andRxRy iw.fieldX iw.fieldY
  | 0x7 => .xorRxRy iw.fieldX iw.fieldY
  | 0x8 => .movRxRy iw.fieldX iw.fieldY
  | 0x9 => .movRxN iw.fieldX iw.fieldY
  | 0xA => .movXyR0 iw.fieldX iw.fieldY
  | 0xB => .movR0Xy iw.fieldX iw.fieldY
  | 0xC => .movNnR0 iw.fieldNn
  | 0xD => .movR0Nn iw.fieldNn
  | 0xE => .movPcNn iw.fieldNn
  | _ => .jr iw.fieldNn -- 0xF

/-- The word of an instruction whose bits are `w`, bit 0 the least significant (log 25): a program word has 12 bits, so a
number with a bit above bit 11 is no instruction, and every other number is one (R87). -/
def decodeTableWord (nbits w : Nat) : Option Instr :=
  if w % 2 ^ nbits < 4096 then some (decode (BitVec.ofNat 12 (w % 2 ^ nbits))) else none

/-- The field G that selects an operand (R86). -/
def Rg.field : Rg → BitVec 2
  | .r0 => 0
  | .r1 => 1
  | .r2 => 2
  | .rs => 3

/-- The field F that selects a condition (R86). -/
def Cond.field : Cond → BitVec 2
  | .c => 0
  | .nc => 1
  | .z => 2
  | .nz => 3

/-- A word of the formats with a 4-bit opcode (R81): `op`, `iw[7:4]`, `iw[3:0]`. -/
def wordOf (op x y : Nibble) : Word := op ++ x ++ y

/-- A word of the format NN (R81). -/
def wordOfNn (op : Nibble) (nn : BitVec 8) : Word := op ++ nn

/-- A word of the format SB (R81): 0000, `op2`, then the fields G or F and M. -/
def wordOfBits (op2 : Nibble) (g m : BitVec 2) : Word := wordOf 0 op2 (g ++ m)

/-- The word of an instruction (R83, R84, R91), written from the tables of the spec and not from `decode`. -/
def encode : Instr → Word
  | .addRxRy x y => wordOf 0x1 x y
  | .adcRxRy x y => wordOf 0x2 x y
  | .subRxRy x y => wordOf 0x3 x y
  | .sbbRxRy x y => wordOf 0x4 x y
  | .orRxRy x y => wordOf 0x5 x y
  | .andRxRy x y => wordOf 0x6 x y
  | .xorRxRy x y => wordOf 0x7 x y
  | .movRxRy x y => wordOf 0x8 x y
  | .movRxN x n => wordOf 0x9 x n
  | .movXyR0 x y => wordOf 0xA x y
  | .movR0Xy x y => wordOf 0xB x y
  | .movNnR0 nn => wordOfNn 0xC nn
  | .movR0Nn nn => wordOfNn 0xD nn
  | .movPcNn nn => wordOfNn 0xE nn
  | .jr nn => wordOfNn 0xF nn
  | .cp n => wordOf 0 0x0 n
  | .addR0N n => wordOf 0 0x1 n
  | .inc y => wordOf 0 0x2 y
  | .dec y => wordOf 0 0x3 y
  | .dsz y => wordOf 0 0x4 y
  | .orR0N n => wordOf 0 0x5 n
  | .andR0N n => wordOf 0 0x6 n
  | .xorR0N n => wordOf 0 0x7 n
  | .exr n => wordOf 0 0x8 (BitVec.ofNat 4 n)
  | .bit g m => wordOfBits 0x9 g.field m
  | .bset g m => wordOfBits 0xA g.field m
  | .bclr g m => wordOfBits 0xB g.field m
  | .btg g m => wordOfBits 0xC g.field m
  | .rrc y => wordOf 0 0xD y
  | .ret n => wordOf 0 0xE n
  | .skip f m => wordOfBits 0xF f.field (BitVec.ofNat 2 m)

/-- The mnemonic of an instruction's row in spec/opcode_table.json. -/
def Instr.mnemonic : Instr → String
  | .addRxRy _ _ => "ADD_RX_RY"
  | .adcRxRy _ _ => "ADC_RX_RY"
  | .subRxRy _ _ => "SUB_RX_RY"
  | .sbbRxRy _ _ => "SBB_RX_RY"
  | .orRxRy _ _ => "OR_RX_RY"
  | .andRxRy _ _ => "AND_RX_RY"
  | .xorRxRy _ _ => "XOR_RX_RY"
  | .movRxRy _ _ => "MOV_RX_RY"
  | .movRxN _ _ => "MOV_RX_N"
  | .movXyR0 _ _ => "MOV__XY__R0"
  | .movR0Xy _ _ => "MOV_R0__XY"
  | .movNnR0 _ => "MOV__NN__R0"
  | .movR0Nn _ => "MOV_R0__NN"
  | .movPcNn _ => "MOV_PC_NN"
  | .jr _ => "JR_NN"
  | .cp _ => "CP_R0_N"
  | .addR0N _ => "ADD_R0_N"
  | .inc _ => "INC_RY"
  | .dec _ => "DEC_RY"
  | .dsz _ => "DSZ_RY"
  | .orR0N _ => "OR_R0_N"
  | .andR0N _ => "AND_R0_N"
  | .xorR0N _ => "XOR_R0_N"
  | .exr _ => "EXR_N"
  | .bit _ _ => "BIT_RG_M"
  | .bset _ _ => "BSET_RG_M"
  | .bclr _ _ => "BCLR_RG_M"
  | .btg _ _ => "BTG_RG_M"
  | .rrc _ => "RRC_RY"
  | .ret _ => "RET_R0_N"
  | .skip _ _ => "SKIP_F_M"

/-- A row of the opcode map (R85): a word is the row's instruction when `iw &&& mask = pattern`. -/
structure OpcodeRow where
  mnemonic : String
  mask : Word
  pattern : Word
  deriving DecidableEq, Repr

/-- The fifteen rows of R83. -/
def primaryRows : List OpcodeRow :=
  [⟨"ADD_RX_RY", 0xF00, 0x100⟩,
   ⟨"ADC_RX_RY", 0xF00, 0x200⟩,
   ⟨"SUB_RX_RY", 0xF00, 0x300⟩,
   ⟨"SBB_RX_RY", 0xF00, 0x400⟩,
   ⟨"OR_RX_RY", 0xF00, 0x500⟩,
   ⟨"AND_RX_RY", 0xF00, 0x600⟩,
   ⟨"XOR_RX_RY", 0xF00, 0x700⟩,
   ⟨"MOV_RX_RY", 0xF00, 0x800⟩,
   ⟨"MOV_RX_N", 0xF00, 0x900⟩,
   ⟨"MOV__XY__R0", 0xF00, 0xA00⟩,
   ⟨"MOV_R0__XY", 0xF00, 0xB00⟩,
   ⟨"MOV__NN__R0", 0xF00, 0xC00⟩,
   ⟨"MOV_R0__NN", 0xF00, 0xD00⟩,
   ⟨"MOV_PC_NN", 0xF00, 0xE00⟩,
   ⟨"JR_NN", 0xF00, 0xF00⟩]

/-- The sixteen rows of R84. -/
def secondaryRows : List OpcodeRow :=
  [⟨"CP_R0_N", 0xFF0, 0x000⟩,
   ⟨"ADD_R0_N", 0xFF0, 0x010⟩,
   ⟨"INC_RY", 0xFF0, 0x020⟩,
   ⟨"DEC_RY", 0xFF0, 0x030⟩,
   ⟨"DSZ_RY", 0xFF0, 0x040⟩,
   ⟨"OR_R0_N", 0xFF0, 0x050⟩,
   ⟨"AND_R0_N", 0xFF0, 0x060⟩,
   ⟨"XOR_R0_N", 0xFF0, 0x070⟩,
   ⟨"EXR_N", 0xFF0, 0x080⟩,
   ⟨"BIT_RG_M", 0xFF0, 0x090⟩,
   ⟨"BSET_RG_M", 0xFF0, 0x0A0⟩,
   ⟨"BCLR_RG_M", 0xFF0, 0x0B0⟩,
   ⟨"BTG_RG_M", 0xFF0, 0x0C0⟩,
   ⟨"RRC_RY", 0xFF0, 0x0D0⟩,
   ⟨"RET_R0_N", 0xFF0, 0x0E0⟩,
   ⟨"SKIP_F_M", 0xFF0, 0x0F0⟩]

/-- The opcode map: every row of spec/opcode_table.json, in its order. -/
def opcodeRows : List OpcodeRow := primaryRows ++ secondaryRows

/-- Whether a word is a row's instruction (R85). -/
def OpcodeRow.covers (r : OpcodeRow) (iw : Word) : Bool := iw &&& r.mask == r.pattern

end Sys2Proof
end

