-- ==== Sys2Proof/Machine/Flags.lean ====
section
/-! DEFINITION. The flag computations: `AddFlags` and `SubFlags` of 40_alu_register.md R100, in exact integer arithmetic,
and the rotate of R176. -/

namespace Sys2Proof.Machine

/-- What an arithmetic operation gives: `(r, Cn, Zn, Vn)` of R100. -/
structure AluResult where
  r : Nibble
  c : Bool
  z : Bool
  v : Bool
  deriving DecidableEq, Repr

/-- The Z of a result: "If result=0000 after operation, set Z. Otherwise, reset Z." -/
def zeroFlag (r : Nibble) : Bool := r == 0

/-- Whether an exact signed result does not fit in -8...+7 (R100; the meaning of "overflow" is PRESUMED by the spec, G5). -/
def signedOverflow (t : Int) : Bool := decide (t < -8) || decide (7 < t)

/-- `AddFlags(a, b, c)` of R100. -/
def addFlags (a b : Nibble) (c : Bool) : AluResult :=
  let s := a.toNat + b.toNat + c.toNat
  let r := BitVec.ofNat 4 s
  { r := r, c := decide (15 < s), z := zeroFlag r, v := signedOverflow (a.toInt + b.toInt + c.toNat) }

/-- `SubFlags(a, b, c)` of R100; `c` true means no borrow in, and the resulting C true means no borrow (R29). -/
def subFlags (a b : Nibble) (c : Bool) : AluResult :=
  let d : Int := a.toNat - b.toNat - (1 - c.toNat)
  let r := BitVec.ofInt 4 d
  { r := r, c := decide (0 ≤ d), z := zeroFlag r, v := signedOverflow (a.toInt - b.toInt - (1 - c.toNat)) }

/-- The result of RRC: `c_old : old[3:1]` (R176). -/
def rotateRight (c : Bool) (old : Nibble) : Nibble := BitVec.ofBool c ++ old.extractLsb' 1 3

end Sys2Proof.Machine
end

