-- ==== Sys2Proof/Config.lean ====
section
/-! DEFINITION. What an implementation fixes and the source leaves open: the parameters of 00_scope.md R5, each with the
settings the spec lists, and the free value `Config.draw` behind every `draw(n)` of the spec (R8). -/

namespace Sys2Proof

/-- `PCWRITE_SCOPE` (R129, D5): which instructions that write 0x0C (JSR) or 0x0D (PCL) start a call or a jump. MOV RX,RY
and MOV RX,N do under every setting. -/
inductive PcwriteScope where
  /-- Every other way to write the two cells is refused (the spec's default). -/
  | movOnlyElseRefuse
  /-- Every other way writes the cell as ordinary data. -/
  | movOnlyElsePlain
  /-- Every RX or RY destination form starts the call or jump too; memory forms and EXR write ordinary data. -/
  | allRegisterWrites
  deriving DecidableEq, Repr

/-- `SFR_MODEL` (R59, D15): how data addresses 0xF0 to 0xFF behave. -/
inductive SfrModel where
  /-- A read is a draw, a write is stored and recorded as an output event (the spec's default). -/
  | drawsAndEvents
  /-- An access other than to 0xFA, 0xFB or `WRFLAGS_ADDR` is refused. -/
  | strict
  deriving DecidableEq, Repr

/-- The parameters the model takes as named arguments (R5). `IN_MODEL` is not here: the supplied input sequence it allows
is the field `inputs` of the state. -/
structure Params where
  /-- `STACK_DEPTH`: how many 3-nibble stack entries there are (D6). -/
  stackDepth : Nat
  /-- `WRFLAGS_ADDR`: the data address of the register WRFLAGS (D13). -/
  wrflagsAddr : DataAddr
  /-- `RESET_PC`: the program counter after reset (D18). -/
  resetPc : ProgAddr
  /-- `PCWRITE_SCOPE` (D5). -/
  pcwriteScope : PcwriteScope
  /-- `INC_WRITES_C`: whether INC RY writes C, with a draw (D8). -/
  incWritesC : Bool
  /-- `BIT_WRITES_C`: whether BIT RG,M writes C, with a draw (D9). -/
  bitWritesC : Bool
  /-- `CP_WRITES_V`: whether CP R0,N writes V (D10). -/
  cpWritesV : Bool
  /-- `ADDI_WRITES_V`: whether ADD R0,N writes V (D11). -/
  addiWritesV : Bool
  /-- `SFR_MODEL` (D15). -/
  sfrModel : SfrModel
  deriving DecidableEq, Repr

/-- The defaults of the table in R5, all of them. PRESUMED for `stackDepth` and `wrflagsAddr` (G3, G4; log 13, 14). -/
def Params.specDefault : Params where
  stackDepth := 5
  wrflagsAddr := 0xF3
  resetPc := 0x000
  pcwriteScope := .movOnlyElseRefuse
  incWritesC := false
  bitWritesC := false
  cpWritesV := false
  addiWritesV := true
  sfrModel := .drawsAndEvents

/-- The parameters of the machine that starts at reset: the spec's defaults, but for `PCWRITE_SCOPE`. DESIGN CHOICE (log 7):
of the effects R129 lists, the machine starts with the plain write, which is what the source's own example AND R13,R12
shows, and refuses nothing. No statement rests on this choice. -/
def Params.atReset : Params :=
  { Params.specDefault with pcwriteScope := .movOnlyElsePlain }

/-- A free value: the n-th value drawn (R8: "an unconstrained n-bit value chosen afresh at each use"). It has no body, so
nothing can be proved of it (log 9). -/
opaque Config.draw : Nat → Nibble

end Sys2Proof
end

