-- ==== Sys2Proof/Machine/State.lean ====
section
/-! DEFINITION. The state of the machine (10_state.md), its value after reset, and the reasons a step stops. -/

namespace Sys2Proof.Machine

/-- Data memory `DM` (R32): the cells that are listed, addresses strictly rising; the general registers R0 to R15 are its
cells 0x00 to 0x0F (R21), the stack stands in it from 0x10 (R57). An address not listed reads as `Memory.blank`. -/
abbrev DataMemory := List (Nat × Nibble)

/-- Program memory `PM` (R31): the words that have been loaded, addresses strictly rising. An address not listed holds no
loaded word, and fetching it faults (R236, U4). -/
abbrev ProgramMemory := List (Nat × Word)

/-- An output event: a value written to the OUT location or to page 15 (R58, R59, D14, D15). -/
structure OutEvent where
  addr : DataAddr
  value : Nibble
  deriving DecidableEq, Repr

/-- The whole state. `inputs`, `draws` and `cfg` are the model's own fields (log 6, 9, 10). -/
structure State where
  /-- The address of the instruction being executed (R24). -/
  pc : ProgAddr
  /-- Flag C, Carry (R27). -/
  c : Bool
  /-- Flag Z, Zero (R27). -/
  z : Bool
  /-- Flag V, signed overflow (R27). -/
  v : Bool
  /-- The stack pointer: the subroutine nesting level (R30). -/
  sp : Nat
  /-- Data memory with the registers in it (R21, R32). -/
  dm : DataMemory
  /-- Program memory (R31). -/
  pm : ProgramMemory
  /-- The sequence of output events, oldest first (R36, R58, R59). -/
  outputs : List OutEvent
  /-- The supplied input sequence of `IN_MODEL`: what the next reads of the IN location return; when it is empty a read of
  IN is a draw (R58, D14). -/
  inputs : List Nibble
  /-- How many free values have been drawn; the next draw is `Config.draw draws` (R8). -/
  draws : Nat
  /-- The parameters of this machine (R5). No instruction changes them. -/
  cfg : Params
  deriving DecidableEq, Repr

/-- Why a step faults. A fault is a verdict of the model, not an event of the hardware (R203). -/
inductive Fault where
  /-- A Subroutine Call with SP at `STACK_DEPTH` (R128, R204), raised by MOV RX,RY and MOV RX,N with RX = JSR, and by the
  other register forms under `allRegisterWrites`. Safe: the spec gives the call no effect there. -/
  | stackOverflow
  /-- RET R0,N with SP = 0 (R177, R204). Safe: the spec gives the return no effect there. -/
  | stackUnderflow
  /-- The program counter stands at a word that was never loaded (R236, U4), raised by the fetch of a step. Safe: such a
  run has no defined continuation. -/
  | unloadedWord
  deriving DecidableEq, Repr

/-- Why a step refuses. -/
inductive Refusal where
  /-- No meaning yet; raised by no arm of `exec` in this model. Safe. -/
  | notModelled (mnemonic : String)
  /-- An instruction other than MOV RX,RY and MOV RX,N writes 0x0C or 0x0D while `PCWRITE_SCOPE` is `movOnlyElseRefuse`
  (R129, R203). Safe. The machine that starts at reset never refuses so (log 7). -/
  | pcwriteUnspecified
  /-- A memory form accesses page 15, other than 0xFA, 0xFB or `WRFLAGS_ADDR`, while `SFR_MODEL` is `strict` (R59, R203).
  Safe. The machine that starts at reset never refuses so. -/
  | sfrUnmodelled
  deriving DecidableEq, Repr

/-- The outcome of one instruction. -/
abbrev Result := Host.Outcome State Fault Refusal

/-! ### Replacing one field -/

def State.setPc (s : State) (pc : ProgAddr) : State := { s with pc := pc }
def State.setC (s : State) (c : Bool) : State := { s with c := c }
def State.setZ (s : State) (z : Bool) : State := { s with z := z }
def State.setV (s : State) (v : Bool) : State := { s with v := v }
def State.setSp (s : State) (sp : Nat) : State := { s with sp := sp }
def State.setDm (s : State) (dm : DataMemory) : State := { s with dm := dm }
def State.setPm (s : State) (pm : ProgramMemory) : State := { s with pm := pm }
def State.setOutputs (s : State) (outputs : List OutEvent) : State := { s with outputs := outputs }
def State.setInputs (s : State) (inputs : List Nibble) : State := { s with inputs := inputs }
def State.setDraws (s : State) (draws : Nat) : State := { s with draws := draws }

/-- The machine right after reset, for given parameters (R37, R230): the program counter at `RESET_PC` and SP = 0 by the
spec's decision D18; nothing listed in data memory (DESIGN CHOICE, log 2), the flags 0 (DESIGN CHOICE, log 3) and no
program loaded (log 5). -/
def State.resetWith (p : Params) : State where
  pc := p.resetPc
  c := false
  z := false
  v := false
  sp := 0
  dm := []
  pm := []
  outputs := []
  inputs := []
  draws := 0
  cfg := p

/-- The machine right after reset. -/
def State.reset : State := State.resetWith Params.atReset

end Sys2Proof.Machine
end

