-- ==== Sys2Proof/Machine/Memory.lean ====
section
/-! DEFINITION. The two memories as lists of (address, value) pairs in one canonical form: addresses strictly rising and
below the size of the memory, and no data cell listed that holds what an unlisted one reads as. -/

namespace Sys2Proof.Machine

/-- How many data cells there are (R32). -/
def Memory.dataSize : Nat := 256

/-- How many program words there are (R31). -/
def Memory.programSize : Nat := 4096

/-- What an unlisted data cell reads as. DESIGN CHOICE (log 2): the spec gives data memory and the registers no value after
reset. -/
def Memory.blank : Nibble := 0

/-- The value listed at an address. -/
def Memory.find? {w : Nat} : List (Nat × BitVec w) → Nat → Option (BitVec w)
  | [], _ => none
  | (b, u) :: m, a => if a = b then some u else Memory.find? m a

/-- List a value at an address, in its place. -/
def Memory.put {w : Nat} : List (Nat × BitVec w) → Nat → BitVec w → List (Nat × BitVec w)
  | [], a, v => [(a, v)]
  | (b, u) :: m, a, v =>
    if a < b then (a, v) :: (b, u) :: m
    else if a = b then (a, v) :: m
    else (b, u) :: Memory.put m a v

/-- List nothing at an address. -/
def Memory.drop {w : Nat} : List (Nat × BitVec w) → Nat → List (Nat × BitVec w)
  | [], _ => []
  | (b, u) :: m, a => if a = b then Memory.drop m a else (b, u) :: Memory.drop m a

/-- One data cell (R50). -/
def Memory.read (m : DataMemory) (a : Nat) : Nibble := (Memory.find? m a).getD Memory.blank

/-- Data memory with one cell written (R50). Writing what an unlisted cell reads as removes the entry. -/
def Memory.write (m : DataMemory) (a : Nat) (v : Nibble) : DataMemory :=
  if v = Memory.blank then Memory.drop m a else Memory.put m a v

/-- Whether the addresses rise strictly, from `lo` on, and stay below `hi`. -/
def Memory.rising {w : Nat} (lo hi : Nat) : List (Nat × BitVec w) → Bool
  | [] => true
  | (b, _) :: m => decide (lo ≤ b) && decide (b < hi) && Memory.rising (b + 1) hi m

/-- The canonical form of data memory. -/
def Memory.wf (m : DataMemory) : Bool :=
  Memory.rising 0 Memory.dataSize m && m.all fun e => e.2 != Memory.blank

/-- The canonical form of program memory. -/
def Memory.programWf (m : ProgramMemory) : Bool := Memory.rising 0 Memory.programSize m

/-- The data cell at an address, as it stands: what it stores, whether or not a read of it returns that. -/
def State.cell (s : State) (a : DataAddr) : Nibble := Memory.read s.dm a.toNat

/-- The state with one data cell stored to, and nothing else. -/
def State.store (s : State) (a : DataAddr) (v : Nibble) : State := s.setDm (Memory.write s.dm a.toNat v)

/-- The word fetched at the program counter, if one was loaded (R20, R31). -/
def State.fetch (s : State) : Option Word := Memory.find? s.pm s.pc.toNat

/-- The state with one program word loaded (R31: no instruction does this). -/
def State.load (s : State) (a : ProgAddr) (w : Word) : State := s.setPm (Memory.put s.pm a.toNat w)

end Sys2Proof.Machine
end

