-- ==== Sys2Proof/Machine/Operands.lean ====
section
/-! DEFINITION. How operands and addresses are formed (30_encoding.md R86, 20_memory.md R51 to R59, 44_short_08_0F.md R171),
and what the fields of SKIP mean (R178). -/

namespace Sys2Proof.Machine

/-- The data address of a general register: register Ri is the cell at address i (R21). -/
def regAddr (i : RegNum) : DataAddr := i.setWidth 8

/-- An 8-bit data address from its high and its low nibble (R51). -/
def pairAddr (hi lo : Nibble) : DataAddr := hi ++ lo

/-- The page of a data address: its high nibble (R56). -/
def pageOf (a : DataAddr) : Nibble := a.extractLsb' 4 4

/-- Whether an address is in page 15, the special function registers (R56, R59). -/
def inPage15 (a : DataAddr) : Bool := pageOf a == 0xF

/-- The cell at the given offset (0, 1 or 2) of stack entry `k`: 0x10 + 3·k + offset (R57). DESIGN CHOICE for a
`STACK_DEPTH` above 80, where the sum is taken modulo 256 (log 12). -/
def stackAddr (k offset : Nat) : DataAddr := BitVec.ofNat 8 (0x10 + 3 * k + offset)

/-- The cell of page 14 that EXR exchanges with register Ri (R170). -/
def alternateAddr (i : Nat) : DataAddr := BitVec.ofNat 8 (0xE0 + i)

/-- Bits 3...0 of a program address (R51). -/
def lowNibble (a : ProgAddr) : Nibble := a.extractLsb' 0 4

/-- Bits 7...4 of a program address (R51). -/
def midNibble (a : ProgAddr) : Nibble := a.extractLsb' 4 4

/-- Bits 11...8 of a program address (R51). -/
def highNibble (a : ProgAddr) : Nibble := a.extractLsb' 8 4

/-- A program address from its high, middle and low nibble (R51, R127). -/
def progAddr (hi mid lo : Nibble) : ProgAddr := hi ++ mid ++ lo

/-- `sext_12` of the displacement of JR (R7, R86). -/
def displacement (nn : BitVec 8) : ProgAddr := nn.signExtend 12

/-- The nibble with bit M set and no other (R173). -/
def bitMask (m : BitVec 2) : Nibble := 1#4 <<< m.toNat

/-- Bit M of a nibble, bit 0 the least significant (R6, R171). -/
def bitOf (v : Nibble) (m : BitVec 2) : Bool := v.getLsbD m.toNat

/-- Bit 1 of WRFLAGS, the only one with an effect (R33): `w1` of R171. -/
def State.wrFlags1 (s : State) : Bool := (s.cell s.cfg.wrflagsAddr).getLsbD 1

/-- Where the register IN is (R58). -/
def State.inAddr (s : State) : DataAddr := if s.wrFlags1 then 0xFB else 0x0B

/-- Where the register OUT is (R58). -/
def State.outAddr (s : State) : DataAddr := if s.wrFlags1 then 0xFA else 0x0A

/-- `RGaddr_read` of R171: what BIT tests, RS being IN. -/
def State.rgReadAddr (s : State) : Rg → DataAddr
  | .r0 => 0x00
  | .r1 => 0x01
  | .r2 => 0x02
  | .rs => s.inAddr

/-- `RGaddr_write` of R171: what BSET, BCLR and BTG change, RS being OUT (for BCLR and BTG by the spec's decision D12). -/
def State.rgWriteAddr (s : State) : Rg → DataAddr
  | .r0 => 0x00
  | .r1 => 0x01
  | .r2 => 0x02
  | .rs => s.outAddr

/-- Whether the condition of SKIP is true (R178). -/
def State.holds (s : State) : Cond → Bool
  | .c => s.c
  | .nc => !s.c
  | .z => s.z
  | .nz => !s.z

/-- `npc`: the address of the next instruction in sequence, modulo 4096 (R8, R25). -/
def State.npc (s : State) : ProgAddr := s.pc + 1

end Sys2Proof.Machine
end

