-- ==== Sys2Proof/Machine/Ops.lean ====
section
/-! DEFINITION. The operations every meaning is written over: reading and writing data memory and registers, ending an
instruction, the Program Jump and the Subroutine Call. The spec describes no exception and no return from one (60_exceptions.md
R200, R205, R206): what stands here in their place is the Subroutine Call, which is the only saving of a return address. -/

namespace Sys2Proof.Machine

/-- A value read, and the state after the read: reading the IN location or page 15 consumes an input or a draw. -/
structure ReadResult where
  value : Nibble
  state : State
  deriving DecidableEq, Repr

/-- The two operands of a register-register form, and the state after they are read. -/
structure PairResult where
  x : Nibble
  y : Nibble
  state : State
  deriving DecidableEq, Repr

/-- `draw(4)` (R8): the next free value. -/
def State.drawNibble (s : State) : ReadResult := ⟨Config.draw s.draws, s.setDraws (s.draws + 1)⟩

/-- Write C with `draw(1)`, a bit of the next free value (R152, R172; log 15). -/
def State.drawC (s : State) : State := ((s.setC ((Config.draw s.draws).getLsbD 0)).setDraws (s.draws + 1))

/-- A read of the IN location (R58): the next value of the supplied input sequence, or a draw when there is none (log 10). -/
def State.readInput (s : State) : ReadResult :=
  match s.inputs with
  | [] => s.drawNibble
  | v :: rest => ⟨v, s.setInputs rest⟩

/-- Whether a read of a page-15 cell returns a draw: every cell but `WRFLAGS_ADDR` and the OUT location (R59). -/
def State.drawsAt (s : State) (a : DataAddr) : Bool :=
  inPage15 a && a != s.cfg.wrflagsAddr && a != s.outAddr

/-- `MemRead(a, 1)` (R8, R58, R59). -/
def State.memRead (s : State) (a : DataAddr) : ReadResult :=
  if a = s.inAddr then s.readInput
  else if s.drawsAt a then s.drawNibble
  else ⟨s.cell a, s⟩

/-- The output events of a write: one for a write to the OUT location or to page 15, none for any other (R58, R59). -/
def State.eventsOf (s : State) (a : DataAddr) (v : Nibble) : List OutEvent :=
  if a == s.outAddr || inPage15 a then [⟨a, v⟩] else []

/-- `MemWrite(a, 1, v)` (R8, R58, R59). -/
def State.memWrite (s : State) (a : DataAddr) (v : Nibble) : State :=
  (s.store a v).setOutputs (s.outputs ++ s.eventsOf a v)

/-- `x[i]` read (R8, R21). -/
def State.readReg (s : State) (i : RegNum) : ReadResult := s.memRead (regAddr i)

/-- `x[i] <- v` (R8, R21). -/
def State.writeReg (s : State) (i : RegNum) (v : Nibble) : State := s.memWrite (regAddr i) v

/-- `x[X]` and `x[Y]` read, before anything is written (R100). With X = Y there is one read, whose value both operands take
("uses the one old value for both operands"; log 16). -/
def State.readPair (s : State) (x y : RegNum) : PairResult :=
  let a := s.readReg x
  if y = x then ⟨a.value, a.value, a.state⟩
  else
    let b := a.state.readReg y
    ⟨a.value, b.value, b.state⟩

/-- C, Z and V written together. -/
def State.setFlags (s : State) (c z v : Bool) : State := ((s.setC c).setZ z).setV v

/-- End an instruction that assigns no `pc`: `pc <- npc` (R8). -/
def State.advance (s : State) : State := s.setPc s.npc

/-- The target of a Program Jump or Subroutine Call: PCH : PCM : v (R127, R128). -/
def State.transferTarget (s : State) (v : Nibble) : ProgAddr :=
  progAddr (s.cell (regAddr RegNum.pch)) (s.cell (regAddr RegNum.pcm)) v

/-- ProgramJump(v) (R127), after `x[13] <- v`. -/
def State.programJump (s : State) (v : Nibble) : State := s.setPc (s.transferTarget v)

/-- The three nibbles of a return address stored in stack entry SP, lowest address first (R51, R57, R128). -/
def State.pushReturn (s : State) (ra : ProgAddr) : State :=
  ((s.memWrite (stackAddr s.sp 0) (lowNibble ra)).memWrite (stackAddr s.sp 1) (midNibble ra)).memWrite
    (stackAddr s.sp 2) (highNibble ra)

/-- SubroutineCall(v) (R128), after `x[12] <- v`. The fault is raised at `STACK_DEPTH`, and above it, where no run comes
(log 12). -/
def State.subroutineCall (s : State) (v : Nibble) : Result :=
  if s.cfg.stackDepth ≤ s.sp then .fault .stackOverflow
  else
    let t := s.pushReturn s.npc
    .next ((t.setSp (t.sp + 1)).setPc (t.transferTarget v))

/-- The call or jump that a write of `v` to JSR or PCL starts. -/
def State.transfer (s : State) (d : RegNum) (v : Nibble) : Result :=
  if d = RegNum.pcl then .next (s.programJump v) else s.subroutineCall v

/-- Whether a register is JSR or PCL. -/
def isPcReg (d : RegNum) : Bool := d == RegNum.jsr || d == RegNum.pcl

/-- End a MOV that has written `v` to register `d` (R120, R121). -/
def State.endMov (s : State) (d : RegNum) (v : Nibble) : Result :=
  if isPcReg d then s.transfer d v else .next s.advance

/-- End any other instruction that has written `v` to register `d` (R108, R129, R158). With `d` neither JSR nor PCL it goes
on at `pc`. With `d` JSR or PCL R129 alone says how it ends: refused, with `pc <- npc`, or with the call or jump. DEDUCED
(log 8): the three hold for DSZ too, so that DSZ R12 and DSZ R13 never skip. -/
def State.endAt (s : State) (d : RegNum) (v : Nibble) (pc : ProgAddr) : Result :=
  if isPcReg d then
    match s.cfg.pcwriteScope with
    | .movOnlyElseRefuse => .refused .pcwriteUnspecified
    | .movOnlyElsePlain => .next s.advance
    | .allRegisterWrites => s.transfer d v
  else .next (s.setPc pc)

/-- Whether the strict `SFR_MODEL` refuses an access (R59). -/
def State.sfrRefuses (s : State) (a : DataAddr) : Bool :=
  s.cfg.sfrModel == .strict && inPage15 a && a != 0xFA && a != 0xFB && a != s.cfg.wrflagsAddr

/-- Whether `PCWRITE_SCOPE` refuses a memory-form write: address 0x0C or 0x0D under `movOnlyElseRefuse` (R129). -/
def State.pcwriteRefuses (s : State) (a : DataAddr) : Bool :=
  s.cfg.pcwriteScope == .movOnlyElseRefuse && (a == regAddr RegNum.jsr || a == regAddr RegNum.pcl)

/-- The body of MOV [XY],R0 and MOV [NN],R0: store R0 at the address and advance (R122, R124, R129, R59). -/
def State.storeR0 (s : State) (a : DataAddr) : Result :=
  if s.pcwriteRefuses a then .refused .pcwriteUnspecified
  else if s.sfrRefuses a then .refused .sfrUnmodelled
  else
    let r := s.readReg 0
    .next (r.state.memWrite a r.value).advance

/-- The body of MOV R0,[XY] and MOV R0,[NN]: load R0 from the address and advance (R123, R125, R59). -/
def State.loadR0 (s : State) (a : DataAddr) : Result :=
  if s.sfrRefuses a then .refused .sfrUnmodelled
  else
    let r := s.memRead a
    .next (r.state.writeReg 0 r.value).advance

/-- Change the operand RG of BSET, BCLR or BTG and advance (R171, R173). -/
def State.changeRg (s : State) (g : Rg) (f : Nibble → Nibble) : State :=
  let a := s.rgWriteAddr g
  let r := s.memRead a
  (r.state.memWrite a (f r.value)).advance

/-- Exchange register Ri with cell 0xE0 + i (R170). -/
def State.exchangeOne (s : State) (i : Nat) : State :=
  let a := s.memRead (BitVec.ofNat 8 i)
  let b := a.state.memRead (alternateAddr i)
  (b.state.memWrite (BitVec.ofNat 8 i) b.value).memWrite (alternateAddr i) a.value

/-- Exchange R0 to R(n-1) with page 14, in rising order (R170; log 28). -/
def State.exchange (s : State) : Nat → State
  | 0 => s
  | n + 1 => (s.exchange n).exchangeOne n

/-- The return address in stack entry `k`, and the state after the three reads (R177). -/
def State.readReturn (s : State) (k : Nat) : ProgAddr × State :=
  let h := s.memRead (stackAddr k 2)
  let m := h.state.memRead (stackAddr k 1)
  let l := m.state.memRead (stackAddr k 0)
  (progAddr h.value m.value l.value, l.state)

end Sys2Proof.Machine
end

