-- ==== Sys2Proof/Machine/Alu.lean ====
section
/-! DEFINITION. Register-register arithmetic and logic, opcodes 1 to 7 (40_alu_register.md). -/

namespace Sys2Proof.Machine

/-- The common behaviour of ADD, ADC, SUB and SBB (R100): read both operands, write the result to RX and all three flags. -/
def State.arith (s : State) (x y : RegNum) (f : Nibble → Nibble → AluResult) : Result :=
  let p := s.readPair x y
  let r := f p.x p.y
  ((p.state.writeReg x r.r).setFlags r.c r.z r.v).endAt x r.r s.npc

/-- The common behaviour of OR, AND and XOR (R100, R105): read both operands, write the result to RX, and Z alone. -/
def State.logic (s : State) (x y : RegNum) (f : Nibble → Nibble → Nibble) : Result :=
  let p := s.readPair x y
  let r := f p.x p.y
  ((p.state.writeReg x r).setZ (zeroFlag r)).endAt x r s.npc

/-- ADD RX,RY (R101). -/
def execAddRxRy (x y : RegNum) (s : State) : Result := s.arith x y fun a b => addFlags a b false

/-- ADC RX,RY (R102). -/
def execAdcRxRy (x y : RegNum) (s : State) : Result := s.arith x y fun a b => addFlags a b s.c

/-- SUB RX,RY (R103). -/
def execSubRxRy (x y : RegNum) (s : State) : Result := s.arith x y fun a b => subFlags a b true

/-- SBB RX,RY (R104). -/
def execSbbRxRy (x y : RegNum) (s : State) : Result := s.arith x y fun a b => subFlags a b s.c

/-- OR RX,RY (R105). -/
def execOrRxRy (x y : RegNum) (s : State) : Result := s.logic x y fun a b => a ||| b

/-- AND RX,RY (R106). -/
def execAndRxRy (x y : RegNum) (s : State) : Result := s.logic x y fun a b => a &&& b

/-- XOR RX,RY (R107). -/
def execXorRxRy (x y : RegNum) (s : State) : Result := s.logic x y fun a b => a ^^^ b

end Sys2Proof.Machine
end

