-- ==== Sys2Proof/Machine/Jump.lean ====
section
/-! DEFINITION. The relative jump, opcode F (42_jr.md). -/

namespace Sys2Proof.Machine

/-- JR NN (R140). -/
def execJr (nn : BitVec 8) (s : State) : Result := .next (s.setPc (s.npc + displacement nn))

end Sys2Proof.Machine
end

