-- ==== Sys2Proof/Machine/Literal.lean ====
section
/-! DEFINITION. The secondary opcodes 00 to 07 (43_short_00_07.md): compare, literal arithmetic and logic on R0, increment,
decrement, decrement-and-skip. -/

namespace Sys2Proof.Machine

/-- CP R0,N (R150). -/
def execCp (n : Nibble) (s : State) : Result :=
  let p := s.readReg 0
  let r := subFlags p.value n true
  let t := (p.state.setC r.c).setZ r.z
  .next (if s.cfg.cpWritesV then t.setV r.v else t).advance

/-- ADD R0,N (R151). -/
def execAddR0N (n : Nibble) (s : State) : Result :=
  let p := s.readReg 0
  let r := addFlags p.value n false
  let t := ((p.state.writeReg 0 r.r).setC r.c).setZ r.z
  .next (if s.cfg.addiWritesV then t.setV r.v else t).advance

/-- INC RY (R152). -/
def execInc (y : RegNum) (s : State) : Result :=
  let p := s.readReg y
  let r := p.value + 1
  let t := (p.state.writeReg y r).setZ (zeroFlag r)
  (if s.cfg.incWritesC then t.drawC else t).endAt y r s.npc

/-- DEC RY (R153). -/
def execDec (y : RegNum) (s : State) : Result :=
  let p := s.readReg y
  let r := p.value - 1
  (((p.state.writeReg y r).setZ (zeroFlag r)).setC (zeroFlag r)).endAt y r s.npc

/-- DSZ RY (R154). R154 and R158 hand DSZ R12 and DSZ R13 to R129, whose `pc <- npc` leaves no skip. DEDUCED (log 8). -/
def execDsz (y : RegNum) (s : State) : Result :=
  let p := s.readReg y
  let r := p.value - 1
  (p.state.writeReg y r).endAt y r (if r = 0 then s.npc + 1 else s.npc)

/-- The common behaviour of OR, AND and XOR R0,N (R155): write R0, C as given, and Z. -/
def State.logicR0 (s : State) (f : Nibble → Nibble) (c : Bool) : Result :=
  let p := s.readReg 0
  let r := f p.value
  .next (((p.state.writeReg 0 r).setC c).setZ (zeroFlag r)).advance

/-- OR R0,N (R155). -/
def execOrR0N (n : Nibble) (s : State) : Result := s.logicR0 (fun a => a ||| n) true

/-- AND R0,N (R156). -/
def execAndR0N (n : Nibble) (s : State) : Result := s.logicR0 (fun a => a &&& n) false

/-- XOR R0,N (R157). -/
def execXorR0N (n : Nibble) (s : State) : Result := s.logicR0 (fun a => a ^^^ n) (!s.c)

end Sys2Proof.Machine
end

