-- ==== Sys2Proof/Machine/Move.lean ====
section
/-! DEFINITION. The MOV instructions, opcodes 8 to E (41_mov.md). None writes a flag. -/

namespace Sys2Proof.Machine

/-- MOV RX,RY (R120). -/
def execMovRxRy (x y : RegNum) (s : State) : Result :=
  let r := s.readReg y
  (r.state.writeReg x r.value).endMov x r.value

/-- MOV RX,N (R121). -/
def execMovRxN (x : RegNum) (n : Nibble) (s : State) : Result := (s.writeReg x n).endMov x n

/-- MOV [XY],R0 (R122). -/
def execMovXyR0 (x y : RegNum) (s : State) : Result :=
  let p := s.readPair x y
  p.state.storeR0 (pairAddr p.x p.y)

/-- MOV R0,[XY] (R123). -/
def execMovR0Xy (x y : RegNum) (s : State) : Result :=
  let p := s.readPair x y
  p.state.loadR0 (pairAddr p.x p.y)

/-- MOV [NN],R0 (R124). -/
def execMovNnR0 (nn : DataAddr) (s : State) : Result := s.storeR0 nn

/-- MOV R0,[NN] (R125). -/
def execMovR0Nn (nn : DataAddr) (s : State) : Result := s.loadR0 nn

/-- MOV PC,NN (R126). -/
def execMovPcNn (nn : BitVec 8) (s : State) : Result :=
  .next ((s.writeReg RegNum.pcm (nn.extractLsb' 0 4)).writeReg RegNum.pch (nn.extractLsb' 4 4)).advance

end Sys2Proof.Machine
end

