-- ==== Sys2Proof/Machine/Special.lean ====
section
/-! DEFINITION. The secondary opcodes 08 to 0F (44_short_08_0F.md): exchange, bit operations, rotate, return, skip. -/

namespace Sys2Proof.Machine

/-- EXR N (R170). It writes R12 when it exchanges 13 registers or more, which `movOnlyElseRefuse` refuses (R129). -/
def execExr (n : Nat) (s : State) : Result :=
  if s.cfg.pcwriteScope = .movOnlyElseRefuse ∧ 13 ≤ n then .refused .pcwriteUnspecified
  else .next (s.exchange n).advance

/-- BIT RG,M (R172). -/
def execBit (g : Rg) (m : BitVec 2) (s : State) : Result :=
  let r := s.memRead (s.rgReadAddr g)
  let t := r.state.setZ (!bitOf r.value m)
  .next (if s.cfg.bitWritesC then t.drawC else t).advance

/-- BSET RG,M (R173). -/
def execBset (g : Rg) (m : BitVec 2) (s : State) : Result := .next (s.changeRg g fun v => v ||| bitMask m)

/-- BCLR RG,M (R174). -/
def execBclr (g : Rg) (m : BitVec 2) (s : State) : Result := .next (s.changeRg g fun v => v &&& ~~~bitMask m)

/-- BTG RG,M (R175). -/
def execBtg (g : Rg) (m : BitVec 2) (s : State) : Result := .next (s.changeRg g fun v => v ^^^ bitMask m)

/-- RRC RY (R176). -/
def execRrc (y : RegNum) (s : State) : Result :=
  let p := s.readReg y
  let r := rotateRight s.c p.value
  (((p.state.writeReg y r).setC (p.value.getLsbD 0)).setZ (zeroFlag r)).endAt y r s.npc

/-- RET R0,N (R177). -/
def execRet (n : Nibble) (s : State) : Result :=
  let t := s.writeReg 0 n
  if t.sp = 0 then .fault .stackUnderflow
  else
    let r := (t.setSp (t.sp - 1)).readReturn (t.sp - 1)
    .next (r.2.setPc r.1)

/-- SKIP F,M (R178). -/
def execSkip (f : Cond) (m : Nat) (s : State) : Result :=
  .next (s.setPc (if s.holds f then s.npc + BitVec.ofNat 12 m else s.npc))

end Sys2Proof.Machine
end

