-- ==== Sys2Proof/Machine/Dispatch.lean ====
section
/-! DEFINITION. One arm per instruction, each a direct call of its meaning. -/

namespace Sys2Proof.Machine

def exec (i : Instr) (s : State) : Host.Outcome State Fault Refusal :=
  match i with
  | .addRxRy x y => Sys2Proof.Machine.execAddRxRy x y s
  | .adcRxRy x y => Sys2Proof.Machine.execAdcRxRy x y s
  | .subRxRy x y => Sys2Proof.Machine.execSubRxRy x y s
  | .sbbRxRy x y => Sys2Proof.Machine.execSbbRxRy x y s
  | .orRxRy x y => Sys2Proof.Machine.execOrRxRy x y s
  | .andRxRy x y => Sys2Proof.Machine.execAndRxRy x y s
  | .xorRxRy x y => Sys2Proof.Machine.execXorRxRy x y s
  | .movRxRy x y => Sys2Proof.Machine.execMovRxRy x y s
  | .movRxN x n => Sys2Proof.Machine.execMovRxN x n s
  | .movXyR0 x y => Sys2Proof.Machine.execMovXyR0 x y s
  | .movR0Xy x y => Sys2Proof.Machine.execMovR0Xy x y s
  | .movNnR0 nn => Sys2Proof.Machine.execMovNnR0 nn s
  | .movR0Nn nn => Sys2Proof.Machine.execMovR0Nn nn s
  | .movPcNn nn => Sys2Proof.Machine.execMovPcNn nn s
  | .jr nn => Sys2Proof.Machine.execJr nn s
  | .cp n => Sys2Proof.Machine.execCp n s
  | .addR0N n => Sys2Proof.Machine.execAddR0N n s
  | .inc y => Sys2Proof.Machine.execInc y s
  | .dec y => Sys2Proof.Machine.execDec y s
  | .dsz y => Sys2Proof.Machine.execDsz y s
  | .orR0N n => Sys2Proof.Machine.execOrR0N n s
  | .andR0N n => Sys2Proof.Machine.execAndR0N n s
  | .xorR0N n => Sys2Proof.Machine.execXorR0N n s
  | .exr n => Sys2Proof.Machine.execExr n s
  | .bit g m => Sys2Proof.Machine.execBit g m s
  | .bset g m => Sys2Proof.Machine.execBset g m s
  | .bclr g m => Sys2Proof.Machine.execBclr g m s
  | .btg g m => Sys2Proof.Machine.execBtg g m s
  | .rrc y => Sys2Proof.Machine.execRrc y s
  | .ret n => Sys2Proof.Machine.execRet n s
  | .skip f m => Sys2Proof.Machine.execSkip f m s

end Sys2Proof.Machine
end

