-- ==== Sys2Proof/Machine/Step.lean ====
section
/-! DEFINITION. One step: fetch the word at the program counter, decode it, run it (10_state.md R20). -/

namespace Sys2Proof.Machine

/-- One step of the machine (R20). A word that was never loaded faults (R236). -/
def step (s : State) : Host.Outcome State Fault Refusal :=
  match s.fetch with
  | none => .fault .unloadedWord
  | some w => exec (decode w) s

/-- The state with the instruction whose bits are `w` loaded where `step` fetches next (log 5, 25). -/
def State.withFetchWord (s : State) (nbits w : Nat) : State := s.load s.pc (BitVec.ofNat 12 (w % 2 ^ nbits))

end Sys2Proof.Machine
end

