-- ==== Sys2Proof/Safety.lean ====
section
/-! DEFINITION. The words the claims are stated in: the invariant of a state, safe and ended runs, what an instruction may
change, and which instructions the spec lists as writers of what. -/

namespace Sys2Proof

/-- Parameters that make a machine of the spec's shape: the stack stays below page 15 (R56, R57; the spec shows at least two
levels, D6) and WRFLAGS is a special function register other than OUT and IN (R33, R56). -/
def Params.Valid (p : Params) : Prop :=
  2 ≤ p.stackDepth ∧ p.stackDepth ≤ 74 ∧ Machine.inPage15 p.wrflagsAddr = true ∧ p.wrflagsAddr ≠ 0xFA ∧ p.wrflagsAddr ≠ 0xFB

/-- The destination register of the forms whose write to JSR or PCL is left open by the source: every RX and RY destination
form but the two MOVs (R108, R129, R158). -/
def Instr.openDest : Instr → Option RegNum
  | .addRxRy x _ | .adcRxRy x _ | .subRxRy x _ | .sbbRxRy x _ | .orRxRy x _ | .andRxRy x _ | .xorRxRy x _ => some x
  | .inc y | .dec y | .dsz y | .rrc y => some y
  | .movRxRy _ _ | .movRxN _ _ | .movXyR0 _ _ | .movR0Xy _ _ | .movNnR0 _ | .movR0Nn _ | .movPcNn _ | .jr _ | .cp _ | .addR0N _
  | .orR0N _ | .andR0N _ | .xorR0N _ | .exr _ | .bit _ _ | .bset _ _ | .bclr _ _ | .btg _ _ | .ret _ | .skip _ _ => none

/-- The destination register of the two MOVs that start a call or a jump (R120, R121). -/
def Instr.movDest : Instr → Option RegNum
  | .movRxRy x _ | .movRxN x _ => some x
  | .addRxRy _ _ | .adcRxRy _ _ | .subRxRy _ _ | .sbbRxRy _ _ | .orRxRy _ _ | .andRxRy _ _ | .xorRxRy _ _ | .inc _ | .dec _
  | .dsz _ | .rrc _ | .movXyR0 _ _ | .movR0Xy _ _ | .movNnR0 _ | .movR0Nn _ | .movPcNn _ | .jr _ | .cp _ | .addR0N _
  | .orR0N _ | .andR0N _ | .xorR0N _ | .exr _ | .bit _ _ | .bset _ _ | .bclr _ _ | .btg _ _ | .ret _ | .skip _ _ => none

/-- The writers of C (R28), with INC and BIT where their parameter says so. -/
def Instr.writesC (p : Params) : Instr → Bool
  | .addRxRy _ _ | .adcRxRy _ _ | .subRxRy _ _ | .sbbRxRy _ _ | .cp _ | .addR0N _ | .dec _ | .orR0N _ | .andR0N _ | .xorR0N _
  | .rrc _ => true
  | .inc _ => p.incWritesC
  | .bit _ _ => p.bitWritesC
  | .orRxRy _ _ | .andRxRy _ _ | .xorRxRy _ _ | .movRxRy _ _ | .movRxN _ _ | .movXyR0 _ _ | .movR0Xy _ _ | .movNnR0 _
  | .movR0Nn _ | .movPcNn _ | .jr _ | .dsz _ | .exr _ | .bset _ _ | .bclr _ _ | .btg _ _ | .ret _ | .skip _ _ => false

/-- The writers of Z (R28). -/
def Instr.writesZ : Instr → Bool
  | .addRxRy _ _ | .adcRxRy _ _ | .subRxRy _ _ | .sbbRxRy _ _ | .orRxRy _ _ | .andRxRy _ _ | .xorRxRy _ _ | .cp _ | .addR0N _
  | .inc _ | .dec _ | .orR0N _ | .andR0N _ | .xorR0N _ | .bit _ _ | .rrc _ => true
  | .movRxRy _ _ | .movRxN _ _ | .movXyR0 _ _ | .movR0Xy _ _ | .movNnR0 _ | .movR0Nn _ | .movPcNn _ | .jr _ | .dsz _ | .exr _
  | .bset _ _ | .bclr _ _ | .btg _ _ | .ret _ | .skip _ _ => false

/-- The writers of V (R28), with CP and ADD R0,N where their parameter says so. -/
def Instr.writesV (p : Params) : Instr → Bool
  | .addRxRy _ _ | .adcRxRy _ _ | .subRxRy _ _ | .sbbRxRy _ _ => true
  | .cp _ => p.cpWritesV
  | .addR0N _ => p.addiWritesV
  | .orRxRy _ _ | .andRxRy _ _ | .xorRxRy _ _ | .movRxRy _ _ | .movRxN _ _ | .movXyR0 _ _ | .movR0Xy _ _ | .movNnR0 _
  | .movR0Nn _ | .movPcNn _ | .jr _ | .inc _ | .dec _ | .dsz _ | .orR0N _ | .andR0N _ | .xorR0N _ | .exr _ | .bit _ _
  | .bset _ _ | .bclr _ _ | .btg _ _ | .rrc _ | .ret _ | .skip _ _ => false

/-- Whether an instruction starts a Subroutine Call or a Program Jump through the register `d` (R129). -/
def Instr.transfersVia (p : Params) (i : Instr) (d : RegNum) : Prop :=
  i.movDest = some d ∨ (p.pcwriteScope = .allRegisterWrites ∧ i.openDest = some d)

/-- The instructions that may leave `pc` elsewhere than at the next word (R26): JR, DSZ, SKIP, RET, and a write of PCL or JSR
that starts a jump or call. -/
def Instr.mayBranch (p : Params) (i : Instr) : Prop :=
  (∃ nn, i = .jr nn) ∨ (∃ y, i = .dsz y) ∨ (∃ f m, i = .skip f m) ∨ (∃ n, i = .ret n) ∨
    i.transfersVia p RegNum.pcl ∨ i.transfersVia p RegNum.jsr

end Sys2Proof

namespace Sys2Proof.Machine

/-- The invariant of a state: both memories in canonical form, and the nesting level within its range (R30). -/
def State.Inv (s : State) : Prop :=
  Memory.wf s.dm = true ∧ Memory.programWf s.pm = true ∧ s.sp ≤ s.cfg.stackDepth

/-- One step answered a next state. -/
def Steps (s t : State) : Prop := step s = .next t

/-- A state from which the next step neither faults nor refuses. -/
def State.Safe (s : State) : Prop := ∃ t, Steps s t

/-- The states a run from `s` comes to. -/
inductive Reaches : State → State → Prop where
  | here (s : State) : Reaches s s
  | step {s t u : State} : Reaches s t → Steps t u → Reaches s u

/-- Where the harness may end a run, the ISA having no halt (R236): at a designated address, or at the word JR -1. -/
def State.ended (endPc : ProgAddr) (s : State) : Bool := s.pc == endPc || s.fetch == some 0xFFF

/-- A run to its end (R236), for at most the given number of steps. -/
def runTo (endPc : ProgAddr) : Nat → State → Result
  | 0, s => .next s
  | k + 1, s =>
    if s.ended endPc then .next s
    else
      match step s with
      | .next t => runTo endPc k t
      | .fault f => .fault f
      | .refused r => .refused r

/-- Instructions executed one after another, whatever the program counter says: an idiom of R92 or R130. -/
def execAll : List Instr → State → Result
  | [], s => .next s
  | i :: is, s =>
    match exec i s with
    | .next t => execAll is t
    | .fault f => .fault f
    | .refused r => .refused r

/-- A destination whose write starts no call or jump and is not refused: it is neither JSR nor PCL, or the parameter makes
the write of those plain (R129). -/
def State.PlainDest (s : State) (d : RegNum) : Prop :=
  isPcReg d = false ∨ s.cfg.pcwriteScope = .movOnlyElsePlain

/-- The memory-form stores at `a` that no setting refuses (R59, R129). -/
def State.StoreAllowed (s : State) (a : DataAddr) : Prop := s.pcwriteRefuses a = false ∧ s.sfrRefuses a = false

/-- The memory-form loads at `a` that no setting refuses (R59). -/
def State.LoadAllowed (s : State) (a : DataAddr) : Prop := s.sfrRefuses a = false

/-- The frame: outside the given cells data memory (every register with it) is as before, and so are SP, program memory and
the parameters. -/
def State.SameBut (s t : State) (cells : DataAddr → Prop) : Prop :=
  (∀ a, ¬cells a → t.cell a = s.cell a) ∧ t.sp = s.sp ∧ t.pm = s.pm ∧ t.cfg = s.cfg

/-- All three flags are as before (R9). -/
def State.SameFlags (s t : State) : Prop := t.c = s.c ∧ t.z = s.z ∧ t.v = s.v

/-- What `t` has taken from and given to the outside: the inputs and draws that `r`, the state after the operands are read,
has taken, and the output events given. -/
def State.Outside (s r t : State) (events : List OutEvent) : Prop :=
  t.inputs = r.inputs ∧ t.draws = r.draws ∧ t.outputs = s.outputs ++ events

/-- `t` is `s` with the value `v` in the one cell `a` and the program counter at `pc`, every other cell, SP, program memory
and parameter as before; what was read is what took `s` to `r`, and the write to `a` is recorded where it is to OUT or page
15. Flags are stated beside it. -/
def State.WroteCell (s r : State) (a : DataAddr) (v : Nibble) (pc : ProgAddr) (t : State) : Prop :=
  t.cell a = v ∧ t.pc = pc ∧ s.SameBut t (fun b => b = a) ∧ s.Outside r t (s.eventsOf a v)

/-- Two results that agree in everything but flag V. -/
def AgreeButV : Result → Result → Prop
  | .next t, .next u => u = t.setV u.v
  | .fault f, .fault g => f = g
  | .refused f, .refused g => f = g
  | _, _ => False

end Sys2Proof.Machine
end

