-- ==== Sys2Proof/Certificates/Slice0/Obligations.lean ====
section
/-! DEFINITION. The statements for the provers. -/

open Sys2Proof Sys2Proof.Machine

/-! ### Encoding -/

/-- Decoding the word of a well-formed instruction gives the instruction back (R85, R86, R91). -/
def Obligations.DecodeOfEncode : Prop :=
  ∀ i : Instr, i.wellFormed = true → decode (encode i) = i

/-- Every one of the 4096 words is a well-formed instruction, and is that instruction's word (R87). -/
def Obligations.EveryWordIsAnInstruction : Prop :=
  ∀ w : Word, (decode w).wellFormed = true ∧ encode (decode w) = w

/-- Exactly one row of the opcode map covers a word, and it is the row of the decoded instruction (R85). -/
def Obligations.DecodeFollowsOpcodeMap : Prop :=
  ∀ w : Word, (opcodeRows.filter fun r => r.covers w).map (fun r => r.mnemonic) = [(decode w).mnemonic]

/-- Words of the source's own examples decode to the instructions printed beside them (95_test_vectors.md S1, S9, S10, S17,
S18, S22, S24, S25). -/
def Obligations.SourceExamplesDecode : Prop :=
  decode 0x120 = .addRxRy 2 0 ∧ decode 0x997 = .movRxN 9 7 ∧ decode 0xA64 = .movXyR0 6 4 ∧ decode 0x043 = .dsz 3 ∧
    decode 0xFFD = .jr (-3) ∧ decode 0x09B = .bit .r2 3 ∧ decode 0x0E4 = .ret 4 ∧ decode 0x0F6 = .skip .nc 2

/-! ### The step -/

/-- Where the word at the program counter is that of a well-formed instruction, a step is that instruction (R20). -/
def Obligations.StepRunsDecodedInstruction : Prop :=
  ∀ (s : State) (i : Instr), i.wellFormed = true → s.fetch = some (encode i) → step s = exec i s

/-- A step at a word that was never loaded faults (R236, D20). It is the spec's decision D20 (log 5). -/
def Obligations.UnloadedWordFaults : Prop :=
  ∀ s : State, s.fetch = none → step s = .fault .unloadedWord

/-! ### Arithmetic and logic on two registers -/

/-- ADD RX,RY (R101), in every form that is not left open by R129. V follows the meaning of overflow that R100 takes from
general knowledge (G5, log 29). -/
def Obligations.AddRegisters : Prop :=
  ∀ (x y : RegNum) (s : State), s.PlainDest x →
    let p := s.readPair x y
    ∃ t, exec (.addRxRy x y) s = .next t ∧ s.WroteCell p.state (regAddr x) (p.x + p.y) (s.pc + 1) t ∧
      (t.c = true ↔ 15 < p.x.toNat + p.y.toNat) ∧ (t.z = true ↔ p.x + p.y = 0) ∧
      (t.v = true ↔ p.x.toInt + p.y.toInt < -8 ∨ 7 < p.x.toInt + p.y.toInt)

/-- ADC RX,RY (R102). V follows the meaning of overflow that R100 takes from general knowledge (G5, log 29). -/
def Obligations.AddRegistersWithCarry : Prop :=
  ∀ (x y : RegNum) (s : State), s.PlainDest x →
    let p := s.readPair x y
    let carry : Nat := if s.c then 1 else 0
    let r := p.x + p.y + BitVec.ofNat 4 carry
    ∃ t, exec (.adcRxRy x y) s = .next t ∧ s.WroteCell p.state (regAddr x) r (s.pc + 1) t ∧
      (t.c = true ↔ 15 < p.x.toNat + p.y.toNat + carry) ∧ (t.z = true ↔ r = 0) ∧
      (t.v = true ↔ p.x.toInt + p.y.toInt + carry < -8 ∨ 7 < p.x.toInt + p.y.toInt + carry)

/-- SUB RX,RY (R103): C is the inverse of the borrow (R29). V follows the meaning of overflow that R100 takes from general
knowledge (G5, log 29). -/
def Obligations.SubtractRegisters : Prop :=
  ∀ (x y : RegNum) (s : State), s.PlainDest x →
    let p := s.readPair x y
    ∃ t, exec (.subRxRy x y) s = .next t ∧ s.WroteCell p.state (regAddr x) (p.x - p.y) (s.pc + 1) t ∧
      (t.c = true ↔ p.y.toNat ≤ p.x.toNat) ∧ (t.z = true ↔ p.x - p.y = 0) ∧
      (t.v = true ↔ p.x.toInt - p.y.toInt < -8 ∨ 7 < p.x.toInt - p.y.toInt)

/-- SBB RX,RY (R104): the complement of C is subtracted too. V follows the meaning of overflow that R100 takes from
general knowledge (G5, log 29). -/
def Obligations.SubtractRegistersWithBorrow : Prop :=
  ∀ (x y : RegNum) (s : State), s.PlainDest x →
    let p := s.readPair x y
    let borrow : Nat := if s.c then 0 else 1
    let r := p.x - p.y - BitVec.ofNat 4 borrow
    ∃ t, exec (.sbbRxRy x y) s = .next t ∧ s.WroteCell p.state (regAddr x) r (s.pc + 1) t ∧
      (t.c = true ↔ p.y.toNat + borrow ≤ p.x.toNat) ∧ (t.z = true ↔ r = 0) ∧
      (t.v = true ↔ p.x.toInt - p.y.toInt - borrow < -8 ∨ 7 < p.x.toInt - p.y.toInt - borrow)

/-- OR RX,RY (R105): C and V are not affected. -/
def Obligations.OrRegisters : Prop :=
  (∀ x y : RegNum, encode (.orRxRy x y) = 0x5#4 ++ x ++ y) ∧
  ∀ (x y : RegNum) (s : State), s.PlainDest x →
    let p := s.readPair x y
    ∃ t, exec (.orRxRy x y) s = .next t ∧ s.WroteCell p.state (regAddr x) (p.x ||| p.y) (s.pc + 1) t ∧
      (t.z = true ↔ p.x ||| p.y = 0) ∧ t.c = s.c ∧ t.v = s.v

/-- AND RX,RY (R106): C and V are not affected. -/
def Obligations.AndRegisters : Prop :=
  (∀ x y : RegNum, encode (.andRxRy x y) = 0x6#4 ++ x ++ y) ∧
  ∀ (x y : RegNum) (s : State), s.PlainDest x →
    let p := s.readPair x y
    ∃ t, exec (.andRxRy x y) s = .next t ∧ s.WroteCell p.state (regAddr x) (p.x &&& p.y) (s.pc + 1) t ∧
      (t.z = true ↔ p.x &&& p.y = 0) ∧ t.c = s.c ∧ t.v = s.v

/-- XOR RX,RY (R107): C and V are not affected; equal operands set Z. -/
def Obligations.XorRegisters : Prop :=
  (∀ x y : RegNum, encode (.xorRxRy x y) = 0x7#4 ++ x ++ y) ∧
  ∀ (x y : RegNum) (s : State), s.PlainDest x →
    let p := s.readPair x y
    ∃ t, exec (.xorRxRy x y) s = .next t ∧ s.WroteCell p.state (regAddr x) (p.x ^^^ p.y) (s.pc + 1) t ∧
      (t.z = true ↔ p.x = p.y) ∧ t.c = s.c ∧ t.v = s.v

/-- The bit forms that R100 gives as equivalent to the flag computations. V follows the meaning of overflow that R100
takes from general knowledge (G5, log 29). -/
def Obligations.FlagBitForms : Prop :=
  ∀ (a b : Nibble) (c : Bool),
    ((addFlags a b c).v = (a.msb == b.msb && (addFlags a b c).r.msb != a.msb)) ∧
    ((subFlags a b c).v = (a.msb != b.msb && (subFlags a b c).r.msb != a.msb)) ∧
    (subFlags a b c).r = (addFlags a (~~~b) c).r ∧ (subFlags a b c).c = (addFlags a (~~~b) c).c

/-! ### MOV, the Program Jump and the Subroutine Call -/

/-- MOV RX,RY to a register other than JSR and PCL (R120). -/
def Obligations.MovRegister : Prop :=
  ∀ (x y : RegNum) (s : State), isPcReg x = false →
    let r := s.readReg y
    ∃ t, exec (.movRxRy x y) s = .next t ∧ s.WroteCell r.state (regAddr x) r.value (s.pc + 1) t ∧ s.SameFlags t

/-- MOV RX,N to a register other than JSR and PCL (R121). -/
def Obligations.MovLiteral : Prop :=
  ∀ (x : RegNum) (n : Nibble) (s : State), isPcReg x = false →
    ∃ t, exec (.movRxN x n) s = .next t ∧ s.WroteCell s (regAddr x) n (s.pc + 1) t ∧ s.SameFlags t

/-- The Program Jump (R127): a MOV to PCL goes on at PCH : PCM : the value written; PCL keeps the value and nothing else
changes. The rule is the spec's decision D3 (log 17). -/
def Obligations.ProgramJump : Prop :=
  ∀ s : State,
    (∀ n : Nibble, ∃ t, exec (.movRxN RegNum.pcl n) s = .next t ∧
      s.WroteCell s 0x0D n (s.cell 0x0F ++ s.cell 0x0E ++ n) t ∧ s.SameFlags t) ∧
    (∀ y : RegNum, let r := s.readReg y
      ∃ t, exec (.movRxRy RegNum.pcl y) s = .next t ∧
        s.WroteCell r.state 0x0D r.value (s.cell 0x0F ++ s.cell 0x0E ++ r.value) t ∧ s.SameFlags t)

/-- The Subroutine Call below `STACK_DEPTH` (R128): the address of the next word is stored in entry SP, low nibble first,
SP rises, R12 keeps the value, and the run goes on at PCH : PCM : value; nothing else changes. The rule is the spec's
decision D4 (log 17). -/
def Obligations.SubroutineCall : Prop :=
  ∀ s : State, s.cfg.Valid → s.sp < s.cfg.stackDepth →
    let called := fun (r t : State) (v : Nibble) =>
      t.pc = s.cell 0x0F ++ s.cell 0x0E ++ v ∧ t.sp = s.sp + 1 ∧ t.cell 0x0C = v ∧
        t.cell (stackAddr s.sp 0) = (s.pc + 1).extractLsb' 0 4 ∧ t.cell (stackAddr s.sp 1) = (s.pc + 1).extractLsb' 4 4 ∧
        t.cell (stackAddr s.sp 2) = (s.pc + 1).extractLsb' 8 4 ∧
        (∀ a, a ≠ 0x0C → a ≠ stackAddr s.sp 0 → a ≠ stackAddr s.sp 1 → a ≠ stackAddr s.sp 2 → t.cell a = s.cell a) ∧
        t.pm = s.pm ∧ t.cfg = s.cfg ∧ s.SameFlags t ∧ s.Outside r t []
    (∀ n : Nibble, ∃ t, exec (.movRxN RegNum.jsr n) s = .next t ∧ called s t n) ∧
    (∀ y : RegNum, ∃ t, exec (.movRxRy RegNum.jsr y) s = .next t ∧ called (s.readReg y).state t (s.readReg y).value)

/-- A call at `STACK_DEPTH` is the fault `stack_overflow` (R128, R204). The rule is the spec's decision D6 (log 12). -/
def Obligations.CallAtFullStackFaults : Prop :=
  ∀ s : State, s.sp = s.cfg.stackDepth →
    (∀ n : Nibble, exec (.movRxN RegNum.jsr n) s = .fault .stackOverflow) ∧
    (∀ y : RegNum, exec (.movRxRy RegNum.jsr y) s = .fault .stackOverflow)

/-- MOV [XY],R0 (R122): the address is formed from RX and RY, RX the high nibble. -/
def Obligations.StoreIndirect : Prop :=
  (∀ x y : RegNum, encode (.movXyR0 x y) = 0xA#4 ++ x ++ y) ∧
  ∀ (x y : RegNum) (s : State),
    let p := s.readPair x y
    let a : DataAddr := p.x ++ p.y
    s.StoreAllowed a →
    ∃ t, exec (.movXyR0 x y) s = .next t ∧ s.WroteCell p.state a (s.cell 0x00) (s.pc + 1) t ∧ s.SameFlags t

/-- MOV R0,[XY] (R123): the address is formed before R0 is written. -/
def Obligations.LoadIndirect : Prop :=
  (∀ x y : RegNum, encode (.movR0Xy x y) = 0xB#4 ++ x ++ y) ∧
  ∀ (x y : RegNum) (s : State),
    let p := s.readPair x y
    let a : DataAddr := p.x ++ p.y
    let r := p.state.memRead a
    s.LoadAllowed a →
    ∃ t, exec (.movR0Xy x y) s = .next t ∧ s.WroteCell r.state 0x00 r.value (s.pc + 1) t ∧ s.SameFlags t

/-- MOV [NN],R0 (R124). -/
def Obligations.StoreDirect : Prop :=
  (∀ nn : BitVec 8, encode (.movNnR0 nn) = 0xC#4 ++ nn) ∧
  ∀ (nn : DataAddr) (s : State), s.StoreAllowed nn →
    ∃ t, exec (.movNnR0 nn) s = .next t ∧ s.WroteCell s nn (s.cell 0x00) (s.pc + 1) t ∧ s.SameFlags t

/-- MOV R0,[NN] (R125). -/
def Obligations.LoadDirect : Prop :=
  (∀ nn : BitVec 8, encode (.movR0Nn nn) = 0xD#4 ++ nn) ∧
  ∀ (nn : DataAddr) (s : State), s.LoadAllowed nn →
    let r := s.memRead nn
    ∃ t, exec (.movR0Nn nn) s = .next t ∧ s.WroteCell r.state 0x00 r.value (s.pc + 1) t ∧ s.SameFlags t

/-- MOV PC,NN (R126): bits 3...0 to R14 and bits 7...4 to R15; the program counter only advances. -/
def Obligations.MovPcLoadsPcmPch : Prop :=
  (∀ nn : BitVec 8, encode (.movPcNn nn) = 0xE#4 ++ nn) ∧
  ∀ (nn : BitVec 8) (s : State),
    ∃ t, exec (.movPcNn nn) s = .next t ∧ t.cell 0x0F ++ t.cell 0x0E = nn ∧ t.pc = s.pc + 1 ∧
      s.SameBut t (fun a => a = 0x0E ∨ a = 0x0F) ∧ s.SameFlags t ∧ s.Outside s t []

/-! ### The relative jump and the skip -/

/-- JR NN (R140): the displacement is added, modulo 4096, to the address of the next word; nothing else changes. -/
def Obligations.RelativeJump : Prop :=
  (∀ nn : BitVec 8, encode (.jr nn) = 0xF#4 ++ nn) ∧
  ∀ (nn : BitVec 8) (s : State),
    exec (.jr nn) s = .next { s with pc := BitVec.ofInt 12 (s.pc.toNat + 1 + nn.toInt) }

/-- SKIP F,M (R178): on the condition the run goes on M words past the next one; nothing else changes. -/
def Obligations.SkipOnCondition : Prop :=
  (∀ f m, encode (.skip f m) = 0x0F#8 ++ (match f with | .c => 0#2 | .nc => 1#2 | .z => 2#2 | .nz => 3#2) ++ BitVec.ofNat 2 m) ∧
  ∀ (f : Cond) (m : Nat) (s : State), (Instr.skip f m).wellFormed = true →
    let holds := (f = .c ∧ s.c = true) ∨ (f = .nc ∧ s.c = false) ∨ (f = .z ∧ s.z = true) ∨ (f = .nz ∧ s.z = false)
    (holds → exec (.skip f m) s = .next { s with pc := BitVec.ofNat 12 (s.pc.toNat + 1 + m) }) ∧
    (¬holds → exec (.skip f m) s = .next { s with pc := BitVec.ofNat 12 (s.pc.toNat + 1) })

/-! ### The literal forms, INC, DEC, DSZ -/

/-- CP R0,N (R150): flags only; V under its parameter alone. The rule's V under `CP_WRITES_V` is as SUB writes it (G5, log
29). -/
def Obligations.CompareLiteral : Prop :=
  (∀ y : Nibble, encode (.cp y) = 0x00#8 ++ y) ∧
  ∀ (n : Nibble) (s : State),
    let d := (s.cell 0x00).toInt - n.toInt
    exec (.cp n) s = .next { s with
      c := decide (n.toNat ≤ (s.cell 0x00).toNat)
      z := decide (s.cell 0x00 = n)
      v := if s.cfg.cpWritesV then decide (d < -8 ∨ 7 < d) else s.v
      pc := s.pc + 1 }

/-- ADD R0,N (R151). V follows the meaning of overflow that R100 takes from general knowledge (G5, log 29). -/
def Obligations.AddLiteral : Prop :=
  ∀ (n : Nibble) (s : State),
    let a := s.cell 0x00
    ∃ t, exec (.addR0N n) s = .next t ∧ s.WroteCell s 0x00 (a + n) (s.pc + 1) t ∧
      (t.c = true ↔ 15 < a.toNat + n.toNat) ∧ (t.z = true ↔ a + n = 0) ∧
      (s.cfg.addiWritesV = true → (t.v = true ↔ a.toInt + n.toInt < -8 ∨ 7 < a.toInt + n.toInt)) ∧
      (s.cfg.addiWritesV = false → t.v = s.v)

/-- INC RY (R152): C is left alone, and where the parameter lets INC write it, C is the next free value, one more drawn. -/
def Obligations.Increment : Prop :=
  (∀ y : Nibble, encode (.inc y) = 0x02#8 ++ y) ∧
  ∀ (y : RegNum) (s : State), s.PlainDest y →
    let r := s.readReg y
    ∃ t, exec (.inc y) s = .next t ∧
      s.WroteCell (if s.cfg.incWritesC then r.state.setDraws (r.state.draws + 1) else r.state)
        (regAddr y) (r.value + 1) (s.pc + 1) t ∧
      (t.z = true ↔ r.value = 15) ∧ t.v = s.v ∧
      t.c = if s.cfg.incWritesC then (Config.draw r.state.draws).getLsbD 0 else s.c

/-- DEC RY (R153): Z and C both say that the result is 0000. -/
def Obligations.Decrement : Prop :=
  (∀ y : Nibble, encode (.dec y) = 0x03#8 ++ y) ∧
  ∀ (y : RegNum) (s : State), s.PlainDest y →
    let r := s.readReg y
    ∃ t, exec (.dec y) s = .next t ∧ s.WroteCell r.state (regAddr y) (r.value - 1) (s.pc + 1) t ∧
      (t.z = true ↔ r.value = 1) ∧ (t.c = true ↔ r.value = 1) ∧ t.v = s.v

/-- DSZ RY (R154): one word is skipped when the result is 0000; no flag changes. That a plain DSZ of R12 or R13 goes on at
the next word and skips nothing is the model's reading of R129 (log 8). -/
def Obligations.DecrementSkipIfZero : Prop :=
  (∀ y : Nibble, encode (.dsz y) = 0x04#8 ++ y) ∧
  ∀ (y : RegNum) (s : State), s.PlainDest y →
    let r := s.readReg y
    ∃ t, exec (.dsz y) s = .next t ∧ s.SameFlags t ∧
      s.WroteCell r.state (regAddr y) (r.value - 1) (if r.value = 1 ∧ isPcReg y = false then s.pc + 2 else s.pc + 1) t

/-- OR, AND and XOR R0,N (R155 to R157): C is set, reset and toggled; V stays. -/
def Obligations.LogicLiterals : Prop :=
  (∀ n : Nibble, encode (.orR0N n) = 0x05#8 ++ n ∧ encode (.andR0N n) = 0x06#8 ++ n ∧ encode (.xorR0N n) = 0x07#8 ++ n) ∧
  ∀ (n : Nibble) (s : State),
    let gives := fun (i : Instr) (r : Nibble) (c : Bool) =>
      ∃ t, exec i s = .next t ∧ s.WroteCell s 0x00 r (s.pc + 1) t ∧ t.c = c ∧ (t.z = true ↔ r = 0) ∧ t.v = s.v
    gives (.orR0N n) (s.cell 0x00 ||| n) true ∧ gives (.andR0N n) (s.cell 0x00 &&& n) false ∧
      gives (.xorR0N n) (s.cell 0x00 ^^^ n) (!s.c)

/-! ### Exchange, bit instructions, rotate, return -/

/-- EXR N (R170): registers R0 to R(n-1) and cells 0xE0 to 0xE0+n-1 are exchanged, R11 giving the value read from IN while it
is the IN location (R58); nothing else changes. The IN and OUT cells follow the spec's decision D14 (log 10, 11). -/
def Obligations.ExchangeRegisters : Prop :=
  ∀ (n : Nat) (s : State), (Instr.exr n).wellFormed = true → s.cfg.Valid →
    (s.cfg.pcwriteScope = .movOnlyElseRefuse → n ≤ 12) →
    let takesInput := decide (12 ≤ n) && !s.wrFlags1
    ∃ t, exec (.exr n) s = .next t ∧ t.pc = s.pc + 1 ∧ s.SameFlags t ∧
      (∀ i < n, t.cell (BitVec.ofNat 8 i) = s.cell (BitVec.ofNat 8 (0xE0 + i))) ∧
      (∀ i < n, t.cell (BitVec.ofNat 8 (0xE0 + i)) =
        if i = 11 ∧ s.wrFlags1 = false then s.readInput.value else s.cell (BitVec.ofNat 8 i)) ∧
      s.SameBut t (fun a => a.toNat < n ∨ (0xE0 ≤ a.toNat ∧ a.toNat < 0xE0 + n)) ∧
      s.Outside (if takesInput then s.readInput.state else s) t
        (if 11 ≤ n ∧ s.wrFlags1 = false then [⟨0x0A, s.cell 0xEA⟩] else [])

/-- Two EXR with the same N in a row restore every register and cell, where IN is not among them (R170). -/
def Obligations.ExchangeTwiceRestores : Prop :=
  ∀ (n : Nat) (s : State), (Instr.exr n).wellFormed = true → s.cfg.Valid →
    (s.cfg.pcwriteScope = .movOnlyElseRefuse → n ≤ 12) → (n ≤ 11 ∨ s.wrFlags1 = true) →
    ∃ t, execAll [.exr n, .exr n] s = .next t ∧ t.pc = s.pc + 2 ∧ ∀ a, t.cell a = s.cell a

/-- BIT RG,M (R171, R172): Z is the complement of the bit; C under its parameter alone, a free value then; no register is
written. RS follows the spec's decisions D13 and D14 (log 10, 14). -/
def Obligations.TestBit : Prop :=
  ∀ (g : Rg) (m : BitVec 2) (s : State),
    let a : DataAddr := match g with
      | .r0 => 0x00
      | .r1 => 0x01
      | .r2 => 0x02
      | .rs => if s.wrFlags1 then 0xFB else 0x0B
    let r := s.memRead a
    exec (.bit g m) s = .next { r.state with
      z := decide (r.value.getLsbD m.toNat = false)
      c := if s.cfg.bitWritesC then (Config.draw r.state.draws).getLsbD 0 else s.c
      draws := if s.cfg.bitWritesC then r.state.draws + 1 else r.state.draws
      pc := s.pc + 1 }

/-- BSET, BCLR and BTG RG,M (R171, R173 to R175): the bit M of the register is set, cleared or inverted, its other bits and
all flags stay. RS of BCLR and BTG is the spec's decision D12 (log 22). -/
def Obligations.ChangeBit : Prop :=
  ∀ (g : Rg) (m : BitVec 2) (s : State),
    let a : DataAddr := match g with
      | .r0 => 0x00
      | .r1 => 0x01
      | .r2 => 0x02
      | .rs => if s.wrFlags1 then 0xFA else 0x0A
    let changes := fun (i : Instr) (bit : Bool → Bool) =>
      ∃ t v, exec i s = .next t ∧ s.WroteCell s a v (s.pc + 1) t ∧ s.SameFlags t ∧
        ∀ k < 4, v.getLsbD k = if k = m.toNat then bit ((s.cell a).getLsbD k) else (s.cell a).getLsbD k
    changes (.bset g m) (fun _ => true) ∧ changes (.bclr g m) (fun _ => false) ∧ changes (.btg g m) (fun b => !b)

/-- RRC RY (R176). -/
def Obligations.RotateRightThroughCarry : Prop :=
  (∀ y : Nibble, encode (.rrc y) = 0x0D#8 ++ y) ∧
  ∀ (y : RegNum) (s : State), s.PlainDest y →
    let r := s.readReg y
    ∃ t v, exec (.rrc y) s = .next t ∧ s.WroteCell r.state (regAddr y) v (s.pc + 1) t ∧
      v.getLsbD 3 = s.c ∧ v.getLsbD 2 = r.value.getLsbD 3 ∧ v.getLsbD 1 = r.value.getLsbD 2 ∧
      v.getLsbD 0 = r.value.getLsbD 1 ∧ t.c = r.value.getLsbD 0 ∧ (t.z = true ↔ v = 0) ∧ t.v = s.v

/-- Five RRC of one register, other than IN, restore the register and C (R176). -/
def Obligations.FiveRotationsRestore : Prop :=
  ∀ (y : RegNum) (s : State), s.PlainDest y → regAddr y ≠ s.inAddr → s.cfg.Valid →
    ∃ t, execAll (List.replicate 5 (.rrc y)) s = .next t ∧ t.c = s.c ∧ ∀ a, t.cell a = s.cell a

/-- RET R0,N above level 0 (R177): R0 is loaded, SP falls, and the run goes on at the address in stack entry SP - 1, low
nibble first; the stack cells and the flags stay. -/
def Obligations.ReturnFromSubroutine : Prop :=
  ∀ (n : Nibble) (s : State), s.cfg.Valid → 0 < s.sp → s.sp ≤ s.cfg.stackDepth →
    ∃ t, exec (.ret n) s = .next t ∧ t.cell 0x00 = n ∧ t.sp = s.sp - 1 ∧
      t.pc = s.cell (stackAddr (s.sp - 1) 2) ++ s.cell (stackAddr (s.sp - 1) 1) ++ s.cell (stackAddr (s.sp - 1) 0) ∧
      (∀ a, a ≠ 0x00 → t.cell a = s.cell a) ∧ t.pm = s.pm ∧ t.cfg = s.cfg ∧ s.SameFlags t ∧ s.Outside s t []

/-- RET at level 0 is the fault `stack_underflow` (R177, R204). The rule is the spec's decision D6 (log 12). -/
def Obligations.ReturnAtLevelZeroFaults : Prop :=
  ∀ (n : Nibble) (s : State), s.sp = 0 → exec (.ret n) s = .fault .stackUnderflow

/-- The call is the inverse of RET (R128): in any state at the level the call made, whose stack entry is still as the call
left it, RET goes back to the word after the call and to the level before it. It rests on the spec's decision D4 (log 17). -/
def Obligations.ReturnUndoesCall : Prop :=
  ∀ (s t u : State) (v n : Nibble), s.cfg.Valid → exec (.movRxN RegNum.jsr v) s = .next t →
    u.cfg = t.cfg → u.sp = t.sp → (∀ k < 3, u.cell (stackAddr s.sp k) = t.cell (stackAddr s.sp k)) →
    ∃ w, exec (.ret n) u = .next w ∧ w.pc = s.pc + 1 ∧ w.sp = s.sp ∧ w.cell 0x00 = n

/-! ### Idioms -/

/-- The far jump reaches every program address from every state (R92, R130). It rests on the spec's decision D3 (log 17). -/
def Obligations.FarJumpReaches : Prop :=
  ∀ (h m l : Nibble) (s : State),
    ∃ t, execAll (Instr.farJump h m l) s = .next t ∧ t.pc = h ++ m ++ l ∧ t.sp = s.sp ∧ s.SameFlags t

/-- SET C, CLEAR C and TOGGLE C keep every register, do to C what they are named for, and lose the old Z (R92). -/
def Obligations.CarryIdioms : Prop :=
  ∀ s : State,
    (∃ t, exec Instr.setC s = .next t ∧ t.c = true ∧ (t.z = true ↔ s.cell 0x00 = 0) ∧ ∀ a, t.cell a = s.cell a) ∧
    (∃ t, exec Instr.clearC s = .next t ∧ t.c = false ∧ (t.z = true ↔ s.cell 0x00 = 0) ∧ ∀ a, t.cell a = s.cell a) ∧
    (∃ t, exec Instr.toggleC s = .next t ∧ t.c = (!s.c) ∧ (t.z = true ↔ s.cell 0x00 = 0) ∧ ∀ a, t.cell a = s.cell a)

/-! ### Writes to JSR and PCL that the source leaves open, and page 15 -/

/-- Under `movOnlyElseRefuse` every other way to write JSR or PCL is refused (R108, R129, R158). This is a setting of the
spec's decision D5 (log 7). -/
def Obligations.OpenPcWritesRefused : Prop :=
  ∀ s : State, s.cfg.pcwriteScope = .movOnlyElseRefuse →
    (∀ (i : Instr) (d : RegNum), i.openDest = some d → isPcReg d = true → exec i s = .refused .pcwriteUnspecified) ∧
    (∀ nn : DataAddr, nn = 0x0C ∨ nn = 0x0D → exec (.movNnR0 nn) s = .refused .pcwriteUnspecified) ∧
    (∀ x y : RegNum, (s.readPair x y).x ++ (s.readPair x y).y = 0x0C#8 ∨ (s.readPair x y).x ++ (s.readPair x y).y = 0x0D#8 →
      exec (.movXyR0 x y) s = .refused .pcwriteUnspecified) ∧
    (∀ n : Nat, 13 ≤ n → exec (.exr n) s = .refused .pcwriteUnspecified)

/-- Under `allRegisterWrites` a register form that writes JSR or PCL does what it does under `movOnlyElsePlain` and starts
the call or jump with the value it wrote, as a MOV does (R129). This is a setting of the spec's decision D5 (log 7); that
DSZ then goes to the target and not past a word is the model's reading (log 8). -/
def Obligations.OpenPcWritesTransfer : Prop :=
  ∀ (s : State) (i : Instr) (d : RegNum), s.cfg.pcwriteScope = .allRegisterWrites → i.openDest = some d →
    let plain : State := { s with cfg := { s.cfg with pcwriteScope := .movOnlyElsePlain } }
    ∃ t, exec i plain = .next t ∧
      (d = RegNum.pcl → exec i s = .next { t with pc := t.cell 0x0F ++ t.cell 0x0E ++ t.cell 0x0D, cfg := s.cfg }) ∧
      (d = RegNum.jsr → exec i s = State.subroutineCall { t with pc := s.pc, cfg := s.cfg } (t.cell 0x0C)) ∧
      (isPcReg d = false → exec i s = .next { t with cfg := s.cfg })

/-- The strict `SFR_MODEL` refuses the memory forms on page 15, but for 0xFA, 0xFB and `WRFLAGS_ADDR` (R59). This is a
setting of the spec's decision D15 (log 18). -/
def Obligations.StrictPage15Refused : Prop :=
  ∀ (s : State) (a : DataAddr), s.cfg.sfrModel = .strict → 0xF0 ≤ a.toNat → a ≠ 0xFA → a ≠ 0xFB → a ≠ s.cfg.wrflagsAddr →
    exec (.movNnR0 a) s = .refused .sfrUnmodelled ∧ exec (.movR0Nn a) s = .refused .sfrUnmodelled ∧
    (∀ x y : RegNum, (s.readPair x y).x ++ (s.readPair x y).y = a →
      exec (.movXyR0 x y) s = .refused .sfrUnmodelled ∧ exec (.movR0Xy x y) s = .refused .sfrUnmodelled)

/-- IN and OUT stand in page 0 or in page 15 as WRFLAGS bit 1 says (R58, R171). The rule is the spec's decision D14 (log
10). -/
def Obligations.PortsFollowWrflags : Prop :=
  ∀ s : State,
    ((s.cell s.cfg.wrflagsAddr).getLsbD 1 = false → s.inAddr = 0x0B ∧ s.outAddr = 0x0A) ∧
    ((s.cell s.cfg.wrflagsAddr).getLsbD 1 = true → s.inAddr = 0xFB ∧ s.outAddr = 0xFA)

/-- What a read of a data address returns and takes (R55, R58, R59): IN gives the next supplied input, or a free value
when there is none; a page-15 cell other than WRFLAGS and OUT gives a free value; any other cell gives what it stores. The
rules are the spec's decisions D14 and D15; that the supplied inputs come before any draw is the model's choice (log 10).
-/
def Obligations.ReadsOfDataMemory : Prop :=
  ∀ (s : State) (a : DataAddr), s.cfg.Valid →
    (a = s.inAddr → ∀ v rest, s.inputs = v :: rest → s.memRead a = ⟨v, { s with inputs := rest }⟩) ∧
    (a = s.inAddr → s.inputs = [] → s.memRead a = ⟨Config.draw s.draws, { s with draws := s.draws + 1 }⟩) ∧
    (a ≠ s.inAddr → 0xF0 ≤ a.toNat → a ≠ s.cfg.wrflagsAddr → a ≠ s.outAddr →
      s.memRead a = ⟨Config.draw s.draws, { s with draws := s.draws + 1 }⟩) ∧
    (a ≠ s.inAddr → a.toNat < 0xF0 ∨ a = s.cfg.wrflagsAddr ∨ a = s.outAddr → s.memRead a = ⟨s.cell a, s⟩)

/-- What the two register operands read (R100, R21): registers other than the IN location give their cells and change
nothing; with X = Y there is one read, which gives both operands; with IN as one of two different operands, that operand is
the input. That X = Y takes one read is the model's reading of "the one old value" (log 16). That any register form that reads
IN gets the input and not the stored cell is the spec's decision D14 (R58), and how inputs are supplied is the model's choice
(log 10). -/
def Obligations.RegisterOperandReads : Prop :=
  ∀ (s : State) (x y : RegNum),
    (regAddr x ≠ s.inAddr → regAddr y ≠ s.inAddr → s.readPair x y = ⟨s.cell (regAddr x), s.cell (regAddr y), s⟩) ∧
    s.readPair x x = ⟨(s.readReg x).value, (s.readReg x).value, (s.readReg x).state⟩ ∧
    (regAddr x = s.inAddr → x ≠ y →
      s.readPair x y = ⟨s.readInput.value, s.cell (regAddr y), s.readInput.state⟩) ∧
    (regAddr y = s.inAddr → x ≠ y →
      s.readPair x y = ⟨s.cell (regAddr x), s.readInput.value, s.readInput.state⟩)

/-- What a write to a data address does (R58, R59): the cell stores the value, no other cell changes, and a write to OUT or
to page 15 is recorded once, after the events before it. The events are the spec's decisions D14 and D15 (log 11). -/
def Obligations.WritesOfDataMemory : Prop :=
  ∀ (s : State) (a : DataAddr) (v : Nibble),
    (s.memWrite a v).cell a = v ∧ (∀ b, b ≠ a → (s.memWrite a v).cell b = s.cell b) ∧
    (s.memWrite a v).outputs = s.outputs ++ (if a = s.outAddr ∨ 0xF0 ≤ a.toNat then [⟨a, v⟩] else [])

/-- Two data memories in canonical form that read alike are equal. The canonical form is the model's (log 1, 2). -/
def Obligations.CanonicalMemoryIsUnique : Prop :=
  ∀ m n : DataMemory, Memory.wf m = true → Memory.wf n = true → (∀ a, Memory.read m a = Memory.read n a) → m = n

/-! ### The whole machine -/

/-- Every step keeps the invariant: both memories in canonical form and SP at most `STACK_DEPTH` (R30, R204). -/
def Obligations.StepKeepsInvariant : Prop :=
  ∀ s t : State, s.Inv → step s = .next t → t.Inv

/-- The machine has the invariant at reset, and valid parameters. It is a statement about chosen and presumed values: the
empty memories are the model's choice (log 2, 5), SP = 0 is the spec's decision D18 (log 4), and the parameters are valid
because `STACK_DEPTH` is 5 and `WRFLAGS_ADDR` is 0xF3, both PRESUMED (G3, G4; log 13, 14). -/
def Obligations.ResetHasInvariant : Prop :=
  State.reset.Inv ∧ State.reset.cfg.Valid

/-- Reset leaves `pc` at `RESET_PC`, whose default is 0x000, and SP at level 0 (R37, R230, D18), for every setting of the
parameters. -/
def Obligations.ResetStartsAtLevelZero : Prop :=
  (∀ p : Params, (State.resetWith p).pc = p.resetPc ∧ (State.resetWith p).sp = 0) ∧
    State.reset.pc = 0x000 ∧ State.reset.sp = 0

/-- No run changes program memory or the parameters (R31, R64, R5). -/
def Obligations.ProgramMemoryIsConstant : Prop :=
  ∀ s t : State, Reaches s t → t.pm = s.pm ∧ t.cfg = s.cfg

/-- A flag is changed only by the instructions that R28 lists for it. -/
def Obligations.OnlyListedFlagWriters : Prop :=
  ∀ (i : Instr) (s t : State), exec i s = .next t →
    (i.writesC s.cfg = false → t.c = s.c) ∧ (i.writesZ = false → t.z = s.z) ∧ (i.writesV s.cfg = false → t.v = s.v)

/-- Every instruction outside the list of R26 goes on at the next word. With the setting `allRegisterWrites` the list
takes in the register forms of R129. -/
def Obligations.OnlyListedBranches : Prop :=
  ∀ (i : Instr) (s t : State), exec i s = .next t → ¬i.mayBranch s.cfg → t.pc = s.pc + 1

/-- SP is written only by RET, which takes 1 from it, and by the Subroutine Call, which adds 1 (R30). -/
def Obligations.OnlyCallAndReturnMoveSp : Prop :=
  ∀ (i : Instr) (s t : State), exec i s = .next t →
    t.sp = s.sp ∨ (t.sp = s.sp + 1 ∧ i.transfersVia s.cfg RegNum.jsr) ∨ (t.sp + 1 = s.sp ∧ ∃ n, i = .ret n)

/-- No instruction reads V (R28): two states that differ in V alone give results that differ in V alone. -/
def Obligations.NoInstructionReadsV : Prop :=
  ∀ (i : Instr) (s : State) (b : Bool), AgreeButV (exec i s) (exec i (s.setV b))

/-- Where no parameter asks for a refusal, that is outside `movOnlyElseRefuse` (the spec's default) and the strict
`SFR_MODEL`, an instruction completes, but for RET at level 0 and a call at a full stack: there is no other exception (R200,
R204). The two faults are the spec's decision D6; that a call with SP above `STACK_DEPTH` faults too is the model's choice
(log 12). -/
def Obligations.InstructionsComplete : Prop :=
  ∀ (i : Instr) (s : State), s.cfg.pcwriteScope ≠ .movOnlyElseRefuse → s.cfg.sfrModel ≠ .strict →
    (∃ t, exec i s = .next t) ∨
    (exec i s = .fault .stackUnderflow ∧ s.sp = 0 ∧ ∃ n, i = .ret n) ∨
    (exec i s = .fault .stackOverflow ∧ s.cfg.stackDepth ≤ s.sp ∧ i.transfersVia s.cfg RegNum.jsr)
end

