-- ==== Sys2Proof/Laws/Memory.lean ====
section
/-! SUPPORT. The laws of the two memories: a read after a write, and the canonical form that every operation keeps. -/

namespace Sys2Proof.Machine

section Cells
variable {w : Nat} (m : List (Nat × BitVec w)) (a b : Nat) (v : BitVec w)

@[simp] theorem Memory.find?_put_same : Memory.find? (Memory.put m a v) a = some v := by
  induction m with
  | nil => simp [Memory.put, Memory.find?]
  | cons e m ih =>
    simp only [Memory.put]
    split_ifs with h₁ h₂
    · simp [Memory.find?]
    · simp [Memory.find?]
    · simp [Memory.find?, h₂, ih]

theorem Memory.find?_put_other (h : b ≠ a) : Memory.find? (Memory.put m a v) b = Memory.find? m b := by
  induction m with
  | nil => simp [Memory.put, Memory.find?, h]
  | cons e m ih =>
    simp only [Memory.put]
    split_ifs with h₁ h₂
    · simp [Memory.find?, h]
    · simp [Memory.find?, ← h₂, h]
    · simp [Memory.find?, ih]

@[simp] theorem Memory.find?_drop_same : Memory.find? (Memory.drop m a) a = none := by
  induction m with
  | nil => rfl
  | cons e m ih =>
    simp only [Memory.drop]
    split_ifs with h
    · exact ih
    · simp [Memory.find?, h, ih]

theorem Memory.find?_drop_other (h : b ≠ a) : Memory.find? (Memory.drop m a) b = Memory.find? m b := by
  induction m with
  | nil => rfl
  | cons e m ih =>
    simp only [Memory.drop]
    split_ifs with h₁
    · simp [Memory.find?, ← h₁, h, ih]
    · simp [Memory.find?, ih]

theorem Memory.rising_lower {lo lo' hi : Nat} (hl : lo' ≤ lo) (h : Memory.rising lo hi m = true) :
    Memory.rising lo' hi m = true := by
  cases m with
  | nil => rfl
  | cons e m =>
    simp only [Memory.rising, Bool.and_eq_true, decide_eq_true_eq] at h ⊢
    exact ⟨⟨hl.trans h.1.1, h.1.2⟩, h.2⟩

theorem Memory.rising_put {lo hi : Nat} (hlo : lo ≤ a) (hhi : a < hi) (h : Memory.rising lo hi m = true) :
    Memory.rising lo hi (Memory.put m a v) = true := by
  induction m generalizing lo with
  | nil => simp [Memory.put, Memory.rising, hlo, hhi]
  | cons e m ih =>
    simp only [Memory.rising, Bool.and_eq_true, decide_eq_true_eq] at h
    simp only [Memory.put]
    split_ifs with h₁ h₂
    · simp only [Memory.rising, Bool.and_eq_true, decide_eq_true_eq]
      exact ⟨⟨hlo, hhi⟩, ⟨h₁, h.1.2⟩, h.2⟩
    · subst h₂
      simp only [Memory.rising, Bool.and_eq_true, decide_eq_true_eq]
      exact h
    · simp only [Memory.rising, Bool.and_eq_true, decide_eq_true_eq]
      exact ⟨h.1, ih (by omega) h.2⟩

theorem Memory.rising_drop {lo hi : Nat} (h : Memory.rising lo hi m = true) :
    Memory.rising lo hi (Memory.drop m a) = true := by
  induction m generalizing lo with
  | nil => rfl
  | cons e m ih =>
    simp only [Memory.rising, Bool.and_eq_true, decide_eq_true_eq] at h
    simp only [Memory.drop]
    split_ifs with h₁
    · exact Memory.rising_lower _ (by omega) (ih h.2)
    · simp only [Memory.rising, Bool.and_eq_true, decide_eq_true_eq]
      exact ⟨h.1, ih h.2⟩

theorem Memory.mem_put {e : Nat × BitVec w} (h : e ∈ Memory.put m a v) : e = (a, v) ∨ e ∈ m := by
  induction m with
  | nil => simpa [Memory.put] using h
  | cons f m ih =>
    simp only [Memory.put] at h
    split_ifs at h with h₁ h₂
    · simpa using h
    · rcases List.mem_cons.mp h with h | h
      · exact .inl h
      · exact .inr (List.mem_cons_of_mem _ h)
    · rcases List.mem_cons.mp h with h | h
      · exact .inr (h ▸ List.mem_cons_self ..)
      · exact (ih h).imp_right (List.mem_cons_of_mem _)

theorem Memory.mem_drop {e : Nat × BitVec w} (h : e ∈ Memory.drop m a) : e ∈ m := by
  induction m with
  | nil => exact h
  | cons f m ih =>
    simp only [Memory.drop] at h
    split_ifs at h with h₁
    · exact List.mem_cons_of_mem _ (ih h)
    · rcases List.mem_cons.mp h with h | h
      · exact h ▸ List.mem_cons_self ..
      · exact List.mem_cons_of_mem _ (ih h)

end Cells

section Data
variable (m : DataMemory) (a b : Nat) (v : Nibble)

/-- A read after a write to the same cell gives the value written. -/
@[simp] theorem Memory.read_write_same : Memory.read (Memory.write m a v) a = v := by
  unfold Memory.read Memory.write
  split_ifs with h
  · simp [h]
  · simp

/-- A write leaves every other cell alone. -/
theorem Memory.read_write_other (h : b ≠ a) : Memory.read (Memory.write m a v) b = Memory.read m b := by
  unfold Memory.read Memory.write
  split_ifs with hv
  · rw [Memory.find?_drop_other m a b h]
  · rw [Memory.find?_put_other m a b v h]

/-- A write keeps the canonical form of data memory. -/
theorem Memory.wf_write (h : Memory.wf m = true) (ha : a < Memory.dataSize) : Memory.wf (Memory.write m a v) = true := by
  simp only [Memory.wf, Bool.and_eq_true, List.all_eq_true] at h ⊢
  unfold Memory.write
  split_ifs with hv
  · exact ⟨Memory.rising_drop m a h.1, fun e he => h.2 e (Memory.mem_drop m a he)⟩
  · refine ⟨Memory.rising_put m a v (Nat.zero_le a) ha h.1, fun e he => ?_⟩
    rcases Memory.mem_put m a v he with rfl | he
    · simpa using hv
    · exact h.2 e he

/-- Loading a program word keeps the canonical form of program memory. -/
theorem Memory.programWf_put (p : ProgramMemory) (w : Word) (h : Memory.programWf p = true) (ha : a < Memory.programSize) :
    Memory.programWf (Memory.put p a w) = true := Memory.rising_put p a w (Nat.zero_le a) ha h

end Data

section StateMemory
variable (s : State) (a b : DataAddr) (x : Nibble)

@[simp] theorem State.cell_store_same : (s.store a x).cell a = x := Memory.read_write_same s.dm a.toNat x

theorem State.cell_store_other (h : b ≠ a) : (s.store a x).cell b = s.cell b :=
  Memory.read_write_other s.dm a.toNat b.toNat x fun e => h (BitVec.eq_of_toNat_eq e)

theorem State.wf_store (h : Memory.wf s.dm = true) : Memory.wf (s.store a x).dm = true :=
  Memory.wf_write s.dm a.toNat x h a.isLt

end StateMemory

end Sys2Proof.Machine
end

