-- ==== Sys2Proof/Laws/State.lean ====
section
/-! SUPPORT. What every field of the state is after every update: one lemma per field per update, true by `rfl`. -/

namespace Sys2Proof.Machine

section Setters
variable (s : State)

@[simp] theorem State.setPc_pc (x : ProgAddr) : (s.setPc x).pc = x := rfl
@[simp] theorem State.setPc_c (x : ProgAddr) : (s.setPc x).c = s.c := rfl
@[simp] theorem State.setPc_z (x : ProgAddr) : (s.setPc x).z = s.z := rfl
@[simp] theorem State.setPc_v (x : ProgAddr) : (s.setPc x).v = s.v := rfl
@[simp] theorem State.setPc_sp (x : ProgAddr) : (s.setPc x).sp = s.sp := rfl
@[simp] theorem State.setPc_dm (x : ProgAddr) : (s.setPc x).dm = s.dm := rfl
@[simp] theorem State.setPc_pm (x : ProgAddr) : (s.setPc x).pm = s.pm := rfl
@[simp] theorem State.setPc_outputs (x : ProgAddr) : (s.setPc x).outputs = s.outputs := rfl
@[simp] theorem State.setPc_inputs (x : ProgAddr) : (s.setPc x).inputs = s.inputs := rfl
@[simp] theorem State.setPc_draws (x : ProgAddr) : (s.setPc x).draws = s.draws := rfl
@[simp] theorem State.setPc_cfg (x : ProgAddr) : (s.setPc x).cfg = s.cfg := rfl

@[simp] theorem State.setC_pc (x : Bool) : (s.setC x).pc = s.pc := rfl
@[simp] theorem State.setC_c (x : Bool) : (s.setC x).c = x := rfl
@[simp] theorem State.setC_z (x : Bool) : (s.setC x).z = s.z := rfl
@[simp] theorem State.setC_v (x : Bool) : (s.setC x).v = s.v := rfl
@[simp] theorem State.setC_sp (x : Bool) : (s.setC x).sp = s.sp := rfl
@[simp] theorem State.setC_dm (x : Bool) : (s.setC x).dm = s.dm := rfl
@[simp] theorem State.setC_pm (x : Bool) : (s.setC x).pm = s.pm := rfl
@[simp] theorem State.setC_outputs (x : Bool) : (s.setC x).outputs = s.outputs := rfl
@[simp] theorem State.setC_inputs (x : Bool) : (s.setC x).inputs = s.inputs := rfl
@[simp] theorem State.setC_draws (x : Bool) : (s.setC x).draws = s.draws := rfl
@[simp] theorem State.setC_cfg (x : Bool) : (s.setC x).cfg = s.cfg := rfl

@[simp] theorem State.setZ_pc (x : Bool) : (s.setZ x).pc = s.pc := rfl
@[simp] theorem State.setZ_c (x : Bool) : (s.setZ x).c = s.c := rfl
@[simp] theorem State.setZ_z (x : Bool) : (s.setZ x).z = x := rfl
@[simp] theorem State.setZ_v (x : Bool) : (s.setZ x).v = s.v := rfl
@[simp] theorem State.setZ_sp (x : Bool) : (s.setZ x).sp = s.sp := rfl
@[simp] theorem State.setZ_dm (x : Bool) : (s.setZ x).dm = s.dm := rfl
@[simp] theorem State.setZ_pm (x : Bool) : (s.setZ x).pm = s.pm := rfl
@[simp] theorem State.setZ_outputs (x : Bool) : (s.setZ x).outputs = s.outputs := rfl
@[simp] theorem State.setZ_inputs (x : Bool) : (s.setZ x).inputs = s.inputs := rfl
@[simp] theorem State.setZ_draws (x : Bool) : (s.setZ x).draws = s.draws := rfl
@[simp] theorem State.setZ_cfg (x : Bool) : (s.setZ x).cfg = s.cfg := rfl

@[simp] theorem State.setV_pc (x : Bool) : (s.setV x).pc = s.pc := rfl
@[simp] theorem State.setV_c (x : Bool) : (s.setV x).c = s.c := rfl
@[simp] theorem State.setV_z (x : Bool) : (s.setV x).z = s.z := rfl
@[simp] theorem State.setV_v (x : Bool) : (s.setV x).v = x := rfl
@[simp] theorem State.setV_sp (x : Bool) : (s.setV x).sp = s.sp := rfl
@[simp] theorem State.setV_dm (x : Bool) : (s.setV x).dm = s.dm := rfl
@[simp] theorem State.setV_pm (x : Bool) : (s.setV x).pm = s.pm := rfl
@[simp] theorem State.setV_outputs (x : Bool) : (s.setV x).outputs = s.outputs := rfl
@[simp] theorem State.setV_inputs (x : Bool) : (s.setV x).inputs = s.inputs := rfl
@[simp] theorem State.setV_draws (x : Bool) : (s.setV x).draws = s.draws := rfl
@[simp] theorem State.setV_cfg (x : Bool) : (s.setV x).cfg = s.cfg := rfl

@[simp] theorem State.setSp_pc (x : Nat) : (s.setSp x).pc = s.pc := rfl
@[simp] theorem State.setSp_c (x : Nat) : (s.setSp x).c = s.c := rfl
@[simp] theorem State.setSp_z (x : Nat) : (s.setSp x).z = s.z := rfl
@[simp] theorem State.setSp_v (x : Nat) : (s.setSp x).v = s.v := rfl
@[simp] theorem State.setSp_sp (x : Nat) : (s.setSp x).sp = x := rfl
@[simp] theorem State.setSp_dm (x : Nat) : (s.setSp x).dm = s.dm := rfl
@[simp] theorem State.setSp_pm (x : Nat) : (s.setSp x).pm = s.pm := rfl
@[simp] theorem State.setSp_outputs (x : Nat) : (s.setSp x).outputs = s.outputs := rfl
@[simp] theorem State.setSp_inputs (x : Nat) : (s.setSp x).inputs = s.inputs := rfl
@[simp] theorem State.setSp_draws (x : Nat) : (s.setSp x).draws = s.draws := rfl
@[simp] theorem State.setSp_cfg (x : Nat) : (s.setSp x).cfg = s.cfg := rfl

@[simp] theorem State.setDm_pc (x : DataMemory) : (s.setDm x).pc = s.pc := rfl
@[simp] theorem State.setDm_c (x : DataMemory) : (s.setDm x).c = s.c := rfl
@[simp] theorem State.setDm_z (x : DataMemory) : (s.setDm x).z = s.z := rfl
@[simp] theorem State.setDm_v (x : DataMemory) : (s.setDm x).v = s.v := rfl
@[simp] theorem State.setDm_sp (x : DataMemory) : (s.setDm x).sp = s.sp := rfl
@[simp] theorem State.setDm_dm (x : DataMemory) : (s.setDm x).dm = x := rfl
@[simp] theorem State.setDm_pm (x : DataMemory) : (s.setDm x).pm = s.pm := rfl
@[simp] theorem State.setDm_outputs (x : DataMemory) : (s.setDm x).outputs = s.outputs := rfl
@[simp] theorem State.setDm_inputs (x : DataMemory) : (s.setDm x).inputs = s.inputs := rfl
@[simp] theorem State.setDm_draws (x : DataMemory) : (s.setDm x).draws = s.draws := rfl
@[simp] theorem State.setDm_cfg (x : DataMemory) : (s.setDm x).cfg = s.cfg := rfl

@[simp] theorem State.setPm_pc (x : ProgramMemory) : (s.setPm x).pc = s.pc := rfl
@[simp] theorem State.setPm_c (x : ProgramMemory) : (s.setPm x).c = s.c := rfl
@[simp] theorem State.setPm_z (x : ProgramMemory) : (s.setPm x).z = s.z := rfl
@[simp] theorem State.setPm_v (x : ProgramMemory) : (s.setPm x).v = s.v := rfl
@[simp] theorem State.setPm_sp (x : ProgramMemory) : (s.setPm x).sp = s.sp := rfl
@[simp] theorem State.setPm_dm (x : ProgramMemory) : (s.setPm x).dm = s.dm := rfl
@[simp] theorem State.setPm_pm (x : ProgramMemory) : (s.setPm x).pm = x := rfl
@[simp] theorem State.setPm_outputs (x : ProgramMemory) : (s.setPm x).outputs = s.outputs := rfl
@[simp] theorem State.setPm_inputs (x : ProgramMemory) : (s.setPm x).inputs = s.inputs := rfl
@[simp] theorem State.setPm_draws (x : ProgramMemory) : (s.setPm x).draws = s.draws := rfl
@[simp] theorem State.setPm_cfg (x : ProgramMemory) : (s.setPm x).cfg = s.cfg := rfl

@[simp] theorem State.setOutputs_pc (x : List OutEvent) : (s.setOutputs x).pc = s.pc := rfl
@[simp] theorem State.setOutputs_c (x : List OutEvent) : (s.setOutputs x).c = s.c := rfl
@[simp] theorem State.setOutputs_z (x : List OutEvent) : (s.setOutputs x).z = s.z := rfl
@[simp] theorem State.setOutputs_v (x : List OutEvent) : (s.setOutputs x).v = s.v := rfl
@[simp] theorem State.setOutputs_sp (x : List OutEvent) : (s.setOutputs x).sp = s.sp := rfl
@[simp] theorem State.setOutputs_dm (x : List OutEvent) : (s.setOutputs x).dm = s.dm := rfl
@[simp] theorem State.setOutputs_pm (x : List OutEvent) : (s.setOutputs x).pm = s.pm := rfl
@[simp] theorem State.setOutputs_outputs (x : List OutEvent) : (s.setOutputs x).outputs = x := rfl
@[simp] theorem State.setOutputs_inputs (x : List OutEvent) : (s.setOutputs x).inputs = s.inputs := rfl
@[simp] theorem State.setOutputs_draws (x : List OutEvent) : (s.setOutputs x).draws = s.draws := rfl
@[simp] theorem State.setOutputs_cfg (x : List OutEvent) : (s.setOutputs x).cfg = s.cfg := rfl

@[simp] theorem State.setInputs_pc (x : List Nibble) : (s.setInputs x).pc = s.pc := rfl
@[simp] theorem State.setInputs_c (x : List Nibble) : (s.setInputs x).c = s.c := rfl
@[simp] theorem State.setInputs_z (x : List Nibble) : (s.setInputs x).z = s.z := rfl
@[simp] theorem State.setInputs_v (x : List Nibble) : (s.setInputs x).v = s.v := rfl
@[simp] theorem State.setInputs_sp (x : List Nibble) : (s.setInputs x).sp = s.sp := rfl
@[simp] theorem State.setInputs_dm (x : List Nibble) : (s.setInputs x).dm = s.dm := rfl
@[simp] theorem State.setInputs_pm (x : List Nibble) : (s.setInputs x).pm = s.pm := rfl
@[simp] theorem State.setInputs_outputs (x : List Nibble) : (s.setInputs x).outputs = s.outputs := rfl
@[simp] theorem State.setInputs_inputs (x : List Nibble) : (s.setInputs x).inputs = x := rfl
@[simp] theorem State.setInputs_draws (x : List Nibble) : (s.setInputs x).draws = s.draws := rfl
@[simp] theorem State.setInputs_cfg (x : List Nibble) : (s.setInputs x).cfg = s.cfg := rfl

@[simp] theorem State.setDraws_pc (x : Nat) : (s.setDraws x).pc = s.pc := rfl
@[simp] theorem State.setDraws_c (x : Nat) : (s.setDraws x).c = s.c := rfl
@[simp] theorem State.setDraws_z (x : Nat) : (s.setDraws x).z = s.z := rfl
@[simp] theorem State.setDraws_v (x : Nat) : (s.setDraws x).v = s.v := rfl
@[simp] theorem State.setDraws_sp (x : Nat) : (s.setDraws x).sp = s.sp := rfl
@[simp] theorem State.setDraws_dm (x : Nat) : (s.setDraws x).dm = s.dm := rfl
@[simp] theorem State.setDraws_pm (x : Nat) : (s.setDraws x).pm = s.pm := rfl
@[simp] theorem State.setDraws_outputs (x : Nat) : (s.setDraws x).outputs = s.outputs := rfl
@[simp] theorem State.setDraws_inputs (x : Nat) : (s.setDraws x).inputs = s.inputs := rfl
@[simp] theorem State.setDraws_draws (x : Nat) : (s.setDraws x).draws = x := rfl
@[simp] theorem State.setDraws_cfg (x : Nat) : (s.setDraws x).cfg = s.cfg := rfl

end Setters

section Operations
variable (s : State)

@[simp] theorem State.store_pc (a : DataAddr) (x : Nibble) : (s.store a x).pc = s.pc := rfl
@[simp] theorem State.store_c (a : DataAddr) (x : Nibble) : (s.store a x).c = s.c := rfl
@[simp] theorem State.store_z (a : DataAddr) (x : Nibble) : (s.store a x).z = s.z := rfl
@[simp] theorem State.store_v (a : DataAddr) (x : Nibble) : (s.store a x).v = s.v := rfl
@[simp] theorem State.store_sp (a : DataAddr) (x : Nibble) : (s.store a x).sp = s.sp := rfl
@[simp] theorem State.store_dm (a : DataAddr) (x : Nibble) : (s.store a x).dm = Memory.write s.dm a.toNat x := rfl
@[simp] theorem State.store_pm (a : DataAddr) (x : Nibble) : (s.store a x).pm = s.pm := rfl
@[simp] theorem State.store_outputs (a : DataAddr) (x : Nibble) : (s.store a x).outputs = s.outputs := rfl
@[simp] theorem State.store_inputs (a : DataAddr) (x : Nibble) : (s.store a x).inputs = s.inputs := rfl
@[simp] theorem State.store_draws (a : DataAddr) (x : Nibble) : (s.store a x).draws = s.draws := rfl
@[simp] theorem State.store_cfg (a : DataAddr) (x : Nibble) : (s.store a x).cfg = s.cfg := rfl

@[simp] theorem State.memWrite_pc (a : DataAddr) (x : Nibble) : (s.memWrite a x).pc = s.pc := rfl
@[simp] theorem State.memWrite_c (a : DataAddr) (x : Nibble) : (s.memWrite a x).c = s.c := rfl
@[simp] theorem State.memWrite_z (a : DataAddr) (x : Nibble) : (s.memWrite a x).z = s.z := rfl
@[simp] theorem State.memWrite_v (a : DataAddr) (x : Nibble) : (s.memWrite a x).v = s.v := rfl
@[simp] theorem State.memWrite_sp (a : DataAddr) (x : Nibble) : (s.memWrite a x).sp = s.sp := rfl
@[simp] theorem State.memWrite_dm (a : DataAddr) (x : Nibble) : (s.memWrite a x).dm = Memory.write s.dm a.toNat x := rfl
@[simp] theorem State.memWrite_pm (a : DataAddr) (x : Nibble) : (s.memWrite a x).pm = s.pm := rfl
@[simp] theorem State.memWrite_outputs (a : DataAddr) (x : Nibble) : (s.memWrite a x).outputs = s.outputs ++ s.eventsOf a x := rfl
@[simp] theorem State.memWrite_inputs (a : DataAddr) (x : Nibble) : (s.memWrite a x).inputs = s.inputs := rfl
@[simp] theorem State.memWrite_draws (a : DataAddr) (x : Nibble) : (s.memWrite a x).draws = s.draws := rfl
@[simp] theorem State.memWrite_cfg (a : DataAddr) (x : Nibble) : (s.memWrite a x).cfg = s.cfg := rfl

@[simp] theorem State.writeReg_pc (i : RegNum) (x : Nibble) : (s.writeReg i x).pc = s.pc := rfl
@[simp] theorem State.writeReg_c (i : RegNum) (x : Nibble) : (s.writeReg i x).c = s.c := rfl
@[simp] theorem State.writeReg_z (i : RegNum) (x : Nibble) : (s.writeReg i x).z = s.z := rfl
@[simp] theorem State.writeReg_v (i : RegNum) (x : Nibble) : (s.writeReg i x).v = s.v := rfl
@[simp] theorem State.writeReg_sp (i : RegNum) (x : Nibble) : (s.writeReg i x).sp = s.sp := rfl
@[simp] theorem State.writeReg_dm (i : RegNum) (x : Nibble) : (s.writeReg i x).dm = Memory.write s.dm (regAddr i).toNat x := rfl
@[simp] theorem State.writeReg_pm (i : RegNum) (x : Nibble) : (s.writeReg i x).pm = s.pm := rfl
@[simp] theorem State.writeReg_outputs (i : RegNum) (x : Nibble) : (s.writeReg i x).outputs = s.outputs ++ s.eventsOf (regAddr i) x := rfl
@[simp] theorem State.writeReg_inputs (i : RegNum) (x : Nibble) : (s.writeReg i x).inputs = s.inputs := rfl
@[simp] theorem State.writeReg_draws (i : RegNum) (x : Nibble) : (s.writeReg i x).draws = s.draws := rfl
@[simp] theorem State.writeReg_cfg (i : RegNum) (x : Nibble) : (s.writeReg i x).cfg = s.cfg := rfl

@[simp] theorem State.setFlags_pc (c z v : Bool) : (s.setFlags c z v).pc = s.pc := rfl
@[simp] theorem State.setFlags_c (c z v : Bool) : (s.setFlags c z v).c = c := rfl
@[simp] theorem State.setFlags_z (c z v : Bool) : (s.setFlags c z v).z = z := rfl
@[simp] theorem State.setFlags_v (c z v : Bool) : (s.setFlags c z v).v = v := rfl
@[simp] theorem State.setFlags_sp (c z v : Bool) : (s.setFlags c z v).sp = s.sp := rfl
@[simp] theorem State.setFlags_dm (c z v : Bool) : (s.setFlags c z v).dm = s.dm := rfl
@[simp] theorem State.setFlags_pm (c z v : Bool) : (s.setFlags c z v).pm = s.pm := rfl
@[simp] theorem State.setFlags_outputs (c z v : Bool) : (s.setFlags c z v).outputs = s.outputs := rfl
@[simp] theorem State.setFlags_inputs (c z v : Bool) : (s.setFlags c z v).inputs = s.inputs := rfl
@[simp] theorem State.setFlags_draws (c z v : Bool) : (s.setFlags c z v).draws = s.draws := rfl
@[simp] theorem State.setFlags_cfg (c z v : Bool) : (s.setFlags c z v).cfg = s.cfg := rfl

@[simp] theorem State.advance_pc : (s.advance).pc = s.npc := rfl
@[simp] theorem State.advance_c : (s.advance).c = s.c := rfl
@[simp] theorem State.advance_z : (s.advance).z = s.z := rfl
@[simp] theorem State.advance_v : (s.advance).v = s.v := rfl
@[simp] theorem State.advance_sp : (s.advance).sp = s.sp := rfl
@[simp] theorem State.advance_dm : (s.advance).dm = s.dm := rfl
@[simp] theorem State.advance_pm : (s.advance).pm = s.pm := rfl
@[simp] theorem State.advance_outputs : (s.advance).outputs = s.outputs := rfl
@[simp] theorem State.advance_inputs : (s.advance).inputs = s.inputs := rfl
@[simp] theorem State.advance_draws : (s.advance).draws = s.draws := rfl
@[simp] theorem State.advance_cfg : (s.advance).cfg = s.cfg := rfl

@[simp] theorem State.drawC_pc : (s.drawC).pc = s.pc := rfl
@[simp] theorem State.drawC_c : (s.drawC).c = (Config.draw s.draws).getLsbD 0 := rfl
@[simp] theorem State.drawC_z : (s.drawC).z = s.z := rfl
@[simp] theorem State.drawC_v : (s.drawC).v = s.v := rfl
@[simp] theorem State.drawC_sp : (s.drawC).sp = s.sp := rfl
@[simp] theorem State.drawC_dm : (s.drawC).dm = s.dm := rfl
@[simp] theorem State.drawC_pm : (s.drawC).pm = s.pm := rfl
@[simp] theorem State.drawC_outputs : (s.drawC).outputs = s.outputs := rfl
@[simp] theorem State.drawC_inputs : (s.drawC).inputs = s.inputs := rfl
@[simp] theorem State.drawC_draws : (s.drawC).draws = s.draws + 1 := rfl
@[simp] theorem State.drawC_cfg : (s.drawC).cfg = s.cfg := rfl

@[simp] theorem State.programJump_pc (x : Nibble) : (s.programJump x).pc = s.transferTarget x := rfl
@[simp] theorem State.programJump_c (x : Nibble) : (s.programJump x).c = s.c := rfl
@[simp] theorem State.programJump_z (x : Nibble) : (s.programJump x).z = s.z := rfl
@[simp] theorem State.programJump_v (x : Nibble) : (s.programJump x).v = s.v := rfl
@[simp] theorem State.programJump_sp (x : Nibble) : (s.programJump x).sp = s.sp := rfl
@[simp] theorem State.programJump_dm (x : Nibble) : (s.programJump x).dm = s.dm := rfl
@[simp] theorem State.programJump_pm (x : Nibble) : (s.programJump x).pm = s.pm := rfl
@[simp] theorem State.programJump_outputs (x : Nibble) : (s.programJump x).outputs = s.outputs := rfl
@[simp] theorem State.programJump_inputs (x : Nibble) : (s.programJump x).inputs = s.inputs := rfl
@[simp] theorem State.programJump_draws (x : Nibble) : (s.programJump x).draws = s.draws := rfl
@[simp] theorem State.programJump_cfg (x : Nibble) : (s.programJump x).cfg = s.cfg := rfl

@[simp] theorem State.load_pc (a : ProgAddr) (w : Word) : (s.load a w).pc = s.pc := rfl
@[simp] theorem State.load_c (a : ProgAddr) (w : Word) : (s.load a w).c = s.c := rfl
@[simp] theorem State.load_z (a : ProgAddr) (w : Word) : (s.load a w).z = s.z := rfl
@[simp] theorem State.load_v (a : ProgAddr) (w : Word) : (s.load a w).v = s.v := rfl
@[simp] theorem State.load_sp (a : ProgAddr) (w : Word) : (s.load a w).sp = s.sp := rfl
@[simp] theorem State.load_dm (a : ProgAddr) (w : Word) : (s.load a w).dm = s.dm := rfl
@[simp] theorem State.load_pm (a : ProgAddr) (w : Word) : (s.load a w).pm = Memory.put s.pm a.toNat w := rfl
@[simp] theorem State.load_outputs (a : ProgAddr) (w : Word) : (s.load a w).outputs = s.outputs := rfl
@[simp] theorem State.load_inputs (a : ProgAddr) (w : Word) : (s.load a w).inputs = s.inputs := rfl
@[simp] theorem State.load_draws (a : ProgAddr) (w : Word) : (s.load a w).draws = s.draws := rfl
@[simp] theorem State.load_cfg (a : ProgAddr) (w : Word) : (s.load a w).cfg = s.cfg := rfl

/-! ### What depends on data memory and the parameters alone -/

@[simp] theorem State.cell_setPc (x : ProgAddr) (a : DataAddr) : (s.setPc x).cell a = s.cell a := rfl
@[simp] theorem State.wrFlags1_setPc (x : ProgAddr) : (s.setPc x).wrFlags1 = s.wrFlags1 := rfl
@[simp] theorem State.inAddr_setPc (x : ProgAddr) : (s.setPc x).inAddr = s.inAddr := rfl
@[simp] theorem State.outAddr_setPc (x : ProgAddr) : (s.setPc x).outAddr = s.outAddr := rfl
@[simp] theorem State.cell_setC (x : Bool) (a : DataAddr) : (s.setC x).cell a = s.cell a := rfl
@[simp] theorem State.wrFlags1_setC (x : Bool) : (s.setC x).wrFlags1 = s.wrFlags1 := rfl
@[simp] theorem State.inAddr_setC (x : Bool) : (s.setC x).inAddr = s.inAddr := rfl
@[simp] theorem State.outAddr_setC (x : Bool) : (s.setC x).outAddr = s.outAddr := rfl
@[simp] theorem State.cell_setZ (x : Bool) (a : DataAddr) : (s.setZ x).cell a = s.cell a := rfl
@[simp] theorem State.wrFlags1_setZ (x : Bool) : (s.setZ x).wrFlags1 = s.wrFlags1 := rfl
@[simp] theorem State.inAddr_setZ (x : Bool) : (s.setZ x).inAddr = s.inAddr := rfl
@[simp] theorem State.outAddr_setZ (x : Bool) : (s.setZ x).outAddr = s.outAddr := rfl
@[simp] theorem State.cell_setV (x : Bool) (a : DataAddr) : (s.setV x).cell a = s.cell a := rfl
@[simp] theorem State.wrFlags1_setV (x : Bool) : (s.setV x).wrFlags1 = s.wrFlags1 := rfl
@[simp] theorem State.inAddr_setV (x : Bool) : (s.setV x).inAddr = s.inAddr := rfl
@[simp] theorem State.outAddr_setV (x : Bool) : (s.setV x).outAddr = s.outAddr := rfl
@[simp] theorem State.cell_setSp (x : Nat) (a : DataAddr) : (s.setSp x).cell a = s.cell a := rfl
@[simp] theorem State.wrFlags1_setSp (x : Nat) : (s.setSp x).wrFlags1 = s.wrFlags1 := rfl
@[simp] theorem State.inAddr_setSp (x : Nat) : (s.setSp x).inAddr = s.inAddr := rfl
@[simp] theorem State.outAddr_setSp (x : Nat) : (s.setSp x).outAddr = s.outAddr := rfl
@[simp] theorem State.cell_setPm (x : ProgramMemory) (a : DataAddr) : (s.setPm x).cell a = s.cell a := rfl
@[simp] theorem State.wrFlags1_setPm (x : ProgramMemory) : (s.setPm x).wrFlags1 = s.wrFlags1 := rfl
@[simp] theorem State.inAddr_setPm (x : ProgramMemory) : (s.setPm x).inAddr = s.inAddr := rfl
@[simp] theorem State.outAddr_setPm (x : ProgramMemory) : (s.setPm x).outAddr = s.outAddr := rfl
@[simp] theorem State.cell_setOutputs (x : List OutEvent) (a : DataAddr) : (s.setOutputs x).cell a = s.cell a := rfl
@[simp] theorem State.wrFlags1_setOutputs (x : List OutEvent) : (s.setOutputs x).wrFlags1 = s.wrFlags1 := rfl
@[simp] theorem State.inAddr_setOutputs (x : List OutEvent) : (s.setOutputs x).inAddr = s.inAddr := rfl
@[simp] theorem State.outAddr_setOutputs (x : List OutEvent) : (s.setOutputs x).outAddr = s.outAddr := rfl
@[simp] theorem State.cell_setInputs (x : List Nibble) (a : DataAddr) : (s.setInputs x).cell a = s.cell a := rfl
@[simp] theorem State.wrFlags1_setInputs (x : List Nibble) : (s.setInputs x).wrFlags1 = s.wrFlags1 := rfl
@[simp] theorem State.inAddr_setInputs (x : List Nibble) : (s.setInputs x).inAddr = s.inAddr := rfl
@[simp] theorem State.outAddr_setInputs (x : List Nibble) : (s.setInputs x).outAddr = s.outAddr := rfl
@[simp] theorem State.cell_setDraws (x : Nat) (a : DataAddr) : (s.setDraws x).cell a = s.cell a := rfl
@[simp] theorem State.wrFlags1_setDraws (x : Nat) : (s.setDraws x).wrFlags1 = s.wrFlags1 := rfl
@[simp] theorem State.inAddr_setDraws (x : Nat) : (s.setDraws x).inAddr = s.inAddr := rfl
@[simp] theorem State.outAddr_setDraws (x : Nat) : (s.setDraws x).outAddr = s.outAddr := rfl

@[simp] theorem State.cell_setFlags (c z v : Bool) (a : DataAddr) : (s.setFlags c z v).cell a = s.cell a := rfl
@[simp] theorem State.cell_advance (a : DataAddr) : s.advance.cell a = s.cell a := rfl
@[simp] theorem State.cell_drawC (a : DataAddr) : s.drawC.cell a = s.cell a := rfl
@[simp] theorem State.cell_programJump (x : Nibble) (a : DataAddr) : (s.programJump x).cell a = s.cell a := rfl
@[simp] theorem State.cell_load (b : ProgAddr) (w : Word) (a : DataAddr) : (s.load b w).cell a = s.cell a := rfl

end Operations

end Sys2Proof.Machine
end

