-- ==== Sys2Proof/Laws/Ops.lean ====
section
/-! SUPPORT. One lemma per shared operation that says what it can do; later proofs cite it and do not unfold the operation. -/

namespace Sys2Proof.Machine

/-! ### Addresses -/

theorem regAddr_injective {i j : RegNum} (h : regAddr i = regAddr j) : i = j := by
  revert i j; decide

theorem regAddr_page0 (i : RegNum) : pageOf (regAddr i) = 0 := by
  revert i; decide

theorem regAddr_not_page15 (i : RegNum) : inPage15 (regAddr i) = false := by
  simp [inPage15, regAddr_page0]

/-- IN is at 0x0B or at 0xFB (R58). -/
theorem State.inAddr_cases (s : State) : s.inAddr = 0x0B ∨ s.inAddr = 0xFB := by
  unfold State.inAddr; split <;> simp

/-- OUT is at 0x0A or at 0xFA (R58). -/
theorem State.outAddr_cases (s : State) : s.outAddr = 0x0A ∨ s.outAddr = 0xFA := by
  unfold State.outAddr; split <;> simp

/-- No register but R11 is ever the IN location. -/
theorem State.regAddr_ne_inAddr (s : State) {i : RegNum} (h : i ≠ RegNum.inp) : regAddr i ≠ s.inAddr := by
  have key : ∀ i : RegNum, i ≠ RegNum.inp → regAddr i ≠ 0x0B ∧ regAddr i ≠ 0xFB := by decide
  rcases s.inAddr_cases with e | e <;> rw [e]
  exacts [(key i h).1, (key i h).2]

/-! ### Reading -/

section Reading
variable (s : State)

/-- A read of the IN location (R58). -/
theorem State.memRead_in : s.memRead s.inAddr = s.readInput := by simp [State.memRead]

/-- A read that draws (R59). -/
theorem State.memRead_draw {a : DataAddr} (hi : a ≠ s.inAddr) (hd : s.drawsAt a = true) :
    s.memRead a = s.drawNibble := by simp [State.memRead, hi, hd]

/-- Any other read returns what the cell stores and changes nothing (R55, R58). -/
theorem State.memRead_plain {a : DataAddr} (hi : a ≠ s.inAddr) (hd : s.drawsAt a = false) :
    s.memRead a = ⟨s.cell a, s⟩ := by simp [State.memRead, hi, hd]

theorem State.drawsAt_regAddr (i : RegNum) : s.drawsAt (regAddr i) = false := by
  simp [State.drawsAt, regAddr_not_page15]

/-- A register other than R11 reads as its cell, and the read changes nothing (R21, R58). -/
theorem State.readReg_plain {i : RegNum} (h : i ≠ RegNum.inp) : s.readReg i = ⟨s.cell (regAddr i), s⟩ :=
  s.memRead_plain (s.regAddr_ne_inAddr h) (s.drawsAt_regAddr i)

@[simp] theorem State.readReg_zero : s.readReg 0 = ⟨s.cell 0x00, s⟩ := s.readReg_plain (by decide)

/-- What every read keeps: all but the supplied inputs and the count of draws. -/
theorem State.memRead_state (a : DataAddr) :
    ∃ inputs draws, (s.memRead a).state = (s.setInputs inputs).setDraws draws := by
  unfold State.memRead
  split_ifs
  · unfold State.readInput
    split
    · exact ⟨s.inputs, s.draws + 1, rfl⟩
    · rename_i rest _
      exact ⟨rest, s.draws, rfl⟩
  · exact ⟨s.inputs, s.draws + 1, rfl⟩
  · exact ⟨s.inputs, s.draws, rfl⟩

@[simp] theorem State.memRead_pc (a : DataAddr) : (s.memRead a).state.pc = s.pc := by
  obtain ⟨i, d, h⟩ := s.memRead_state a; simp [h]
@[simp] theorem State.memRead_c (a : DataAddr) : (s.memRead a).state.c = s.c := by
  obtain ⟨i, d, h⟩ := s.memRead_state a; simp [h]
@[simp] theorem State.memRead_z (a : DataAddr) : (s.memRead a).state.z = s.z := by
  obtain ⟨i, d, h⟩ := s.memRead_state a; simp [h]
@[simp] theorem State.memRead_v (a : DataAddr) : (s.memRead a).state.v = s.v := by
  obtain ⟨i, d, h⟩ := s.memRead_state a; simp [h]
@[simp] theorem State.memRead_sp (a : DataAddr) : (s.memRead a).state.sp = s.sp := by
  obtain ⟨i, d, h⟩ := s.memRead_state a; simp [h]
@[simp] theorem State.memRead_dm (a : DataAddr) : (s.memRead a).state.dm = s.dm := by
  obtain ⟨i, d, h⟩ := s.memRead_state a; simp [h]
@[simp] theorem State.memRead_pm (a : DataAddr) : (s.memRead a).state.pm = s.pm := by
  obtain ⟨i, d, h⟩ := s.memRead_state a; simp [h]
@[simp] theorem State.memRead_outputs (a : DataAddr) : (s.memRead a).state.outputs = s.outputs := by
  obtain ⟨i, d, h⟩ := s.memRead_state a; simp [h]
@[simp] theorem State.memRead_cfg (a : DataAddr) : (s.memRead a).state.cfg = s.cfg := by
  obtain ⟨i, d, h⟩ := s.memRead_state a; simp [h]

theorem State.readPair_state (x y : RegNum) :
    ∃ inputs draws, (s.readPair x y).state = (s.setInputs inputs).setDraws draws := by
  unfold State.readPair State.readReg
  obtain ⟨i, d, h⟩ := s.memRead_state (regAddr x)
  split
  · exact ⟨i, d, h⟩
  · obtain ⟨i', d', h'⟩ := (s.memRead (regAddr x)).state.memRead_state (regAddr y)
    exact ⟨i', d', by simp only [h']; rw [h]; rfl⟩

@[simp] theorem State.readReg_pc (i : RegNum) : (s.readReg i).state.pc = s.pc := s.memRead_pc (regAddr i)
@[simp] theorem State.readReg_c (i : RegNum) : (s.readReg i).state.c = s.c := s.memRead_c (regAddr i)
@[simp] theorem State.readReg_z (i : RegNum) : (s.readReg i).state.z = s.z := s.memRead_z (regAddr i)
@[simp] theorem State.readReg_v (i : RegNum) : (s.readReg i).state.v = s.v := s.memRead_v (regAddr i)
@[simp] theorem State.readReg_sp (i : RegNum) : (s.readReg i).state.sp = s.sp := s.memRead_sp (regAddr i)
@[simp] theorem State.readReg_dm (i : RegNum) : (s.readReg i).state.dm = s.dm := s.memRead_dm (regAddr i)
@[simp] theorem State.readReg_pm (i : RegNum) : (s.readReg i).state.pm = s.pm := s.memRead_pm (regAddr i)
@[simp] theorem State.readReg_outputs (i : RegNum) : (s.readReg i).state.outputs = s.outputs := s.memRead_outputs (regAddr i)
@[simp] theorem State.readReg_cfg (i : RegNum) : (s.readReg i).state.cfg = s.cfg := s.memRead_cfg (regAddr i)
@[simp] theorem State.readPair_pc (x y : RegNum) : (s.readPair x y).state.pc = s.pc := by
  obtain ⟨i, d, h⟩ := s.readPair_state x y; simp [h]
@[simp] theorem State.readPair_c (x y : RegNum) : (s.readPair x y).state.c = s.c := by
  obtain ⟨i, d, h⟩ := s.readPair_state x y; simp [h]
@[simp] theorem State.readPair_z (x y : RegNum) : (s.readPair x y).state.z = s.z := by
  obtain ⟨i, d, h⟩ := s.readPair_state x y; simp [h]
@[simp] theorem State.readPair_v (x y : RegNum) : (s.readPair x y).state.v = s.v := by
  obtain ⟨i, d, h⟩ := s.readPair_state x y; simp [h]
@[simp] theorem State.readPair_sp (x y : RegNum) : (s.readPair x y).state.sp = s.sp := by
  obtain ⟨i, d, h⟩ := s.readPair_state x y; simp [h]
@[simp] theorem State.readPair_dm (x y : RegNum) : (s.readPair x y).state.dm = s.dm := by
  obtain ⟨i, d, h⟩ := s.readPair_state x y; simp [h]
@[simp] theorem State.readPair_pm (x y : RegNum) : (s.readPair x y).state.pm = s.pm := by
  obtain ⟨i, d, h⟩ := s.readPair_state x y; simp [h]
@[simp] theorem State.readPair_outputs (x y : RegNum) : (s.readPair x y).state.outputs = s.outputs := by
  obtain ⟨i, d, h⟩ := s.readPair_state x y; simp [h]
@[simp] theorem State.readPair_cfg (x y : RegNum) : (s.readPair x y).state.cfg = s.cfg := by
  obtain ⟨i, d, h⟩ := s.readPair_state x y; simp [h]

/-- Two registers other than R11 read as their cells, and the reads change nothing (R100). -/
theorem State.readPair_plain {x y : RegNum} (hx : x ≠ RegNum.inp) (hy : y ≠ RegNum.inp) :
    s.readPair x y = ⟨s.cell (regAddr x), s.cell (regAddr y), s⟩ := by
  simp only [State.readPair, s.readReg_plain hx, s.readReg_plain hy]
  split_ifs with h
  · rw [h]
  · rfl

theorem State.cell_congr {s t : State} (h : t.dm = s.dm) (a : DataAddr) : t.cell a = s.cell a := by
  simp [State.cell, h]

theorem State.wrFlags1_congr {s t : State} (h : t.dm = s.dm) (hc : t.cfg = s.cfg) : t.wrFlags1 = s.wrFlags1 := by
  simp [State.wrFlags1, State.cell, h, hc]

theorem State.inAddr_congr {s t : State} (h : t.dm = s.dm) (hc : t.cfg = s.cfg) : t.inAddr = s.inAddr := by
  simp [State.inAddr, State.wrFlags1_congr h hc]

theorem State.outAddr_congr {s t : State} (h : t.dm = s.dm) (hc : t.cfg = s.cfg) : t.outAddr = s.outAddr := by
  simp [State.outAddr, State.wrFlags1_congr h hc]

theorem State.eventsOf_congr {s t : State} (h : t.dm = s.dm) (hc : t.cfg = s.cfg) (a : DataAddr) (x : Nibble) :
    t.eventsOf a x = s.eventsOf a x := by
  simp [State.eventsOf, State.outAddr_congr h hc]

@[simp] theorem State.cell_memRead (a b : DataAddr) : (s.memRead a).state.cell b = s.cell b :=
  State.cell_congr (s.memRead_dm a) b

@[simp] theorem State.cell_readReg (i : RegNum) (b : DataAddr) : (s.readReg i).state.cell b = s.cell b :=
  State.cell_congr (s.readReg_dm i) b

@[simp] theorem State.cell_readPair (x y : RegNum) (b : DataAddr) : (s.readPair x y).state.cell b = s.cell b :=
  State.cell_congr (s.readPair_dm x y) b

end Reading

/-! ### Writing -/

section Writing
variable (s : State) (a b : DataAddr) (x : Nibble)

@[simp] theorem State.cell_memWrite_same : (s.memWrite a x).cell a = x := s.cell_store_same a x

theorem State.cell_memWrite_other (h : b ≠ a) : (s.memWrite a x).cell b = s.cell b := s.cell_store_other a b x h

@[simp] theorem State.cell_writeReg_same (i : RegNum) : (s.writeReg i x).cell (regAddr i) = x :=
  s.cell_memWrite_same (regAddr i) x

theorem State.cell_writeReg_other (i : RegNum) (h : b ≠ regAddr i) : (s.writeReg i x).cell b = s.cell b :=
  s.cell_memWrite_other (regAddr i) b x h

theorem State.wf_memWrite (h : Memory.wf s.dm = true) : Memory.wf (s.memWrite a x).dm = true := s.wf_store a x h

theorem State.wf_writeReg (i : RegNum) (h : Memory.wf s.dm = true) : Memory.wf (s.writeReg i x).dm = true :=
  s.wf_memWrite (regAddr i) x h

end Writing

/-! ### Ending an instruction -/

section Ending
variable (s : State)

@[simp] theorem State.pushReturn_pc (ra : ProgAddr) : (s.pushReturn ra).pc = s.pc := by
  simp [State.pushReturn]
@[simp] theorem State.pushReturn_c (ra : ProgAddr) : (s.pushReturn ra).c = s.c := by
  simp [State.pushReturn]
@[simp] theorem State.pushReturn_z (ra : ProgAddr) : (s.pushReturn ra).z = s.z := by
  simp [State.pushReturn]
@[simp] theorem State.pushReturn_v (ra : ProgAddr) : (s.pushReturn ra).v = s.v := by
  simp [State.pushReturn]
@[simp] theorem State.pushReturn_sp (ra : ProgAddr) : (s.pushReturn ra).sp = s.sp := by
  simp [State.pushReturn]
@[simp] theorem State.pushReturn_pm (ra : ProgAddr) : (s.pushReturn ra).pm = s.pm := by
  simp [State.pushReturn]
@[simp] theorem State.pushReturn_cfg (ra : ProgAddr) : (s.pushReturn ra).cfg = s.cfg := by
  simp [State.pushReturn]

/-- What a Subroutine Call answers (R128). -/
theorem State.subroutineCall_next {x : Nibble} {t : State} (h : s.subroutineCall x = .next t) :
    s.sp < s.cfg.stackDepth ∧
      t = ((s.pushReturn s.npc).setSp (s.sp + 1)).setPc ((s.pushReturn s.npc).transferTarget x) := by
  unfold State.subroutineCall at h
  split at h
  · cases h
  · injection h with h
    exact ⟨by omega, by rw [← h, State.pushReturn_sp]⟩

/-- A Subroutine Call completes exactly below `STACK_DEPTH` (R128, R204). -/
theorem State.subroutineCall_room {x : Nibble} (h : s.sp < s.cfg.stackDepth) :
    s.subroutineCall x =
      .next (((s.pushReturn s.npc).setSp (s.sp + 1)).setPc ((s.pushReturn s.npc).transferTarget x)) := by
  unfold State.subroutineCall
  rw [if_neg (by omega), ← s.pushReturn_sp s.npc]

theorem State.subroutineCall_full {x : Nibble} (h : s.cfg.stackDepth ≤ s.sp) :
    s.subroutineCall x = .fault .stackOverflow := by
  unfold State.subroutineCall
  rw [if_pos h]

/-- What an instruction that writes a register can end in (R129): where it goes on if the register is neither JSR nor PCL, the
next word or a transfer if it is. -/
theorem State.endAt_next {d : RegNum} {x : Nibble} {pc : ProgAddr} {t : State} (h : s.endAt d x pc = .next t) :
    (isPcReg d = false ∧ t = s.setPc pc) ∨ (isPcReg d = true ∧ t = s.advance) ∨ (d = RegNum.pcl ∧ t = s.programJump x) ∨
      (d = RegNum.jsr ∧ s.subroutineCall x = .next t) := by
  unfold State.endAt State.transfer isPcReg at h
  split at h
  · rename_i hd
    split at h
    · cases h
    · cases h; exact .inr (.inl ⟨hd, rfl⟩)
    · split at h
      · rename_i he
        cases h; exact .inr (.inr (.inl ⟨he, rfl⟩))
      · rename_i he
        refine .inr (.inr (.inr ⟨?_, h⟩))
        simpa [he] using hd
  · rename_i hd
    cases h; exact .inl ⟨by simpa [isPcReg] using hd, rfl⟩

/-- The ordinary end: the destination is neither JSR nor PCL. -/
theorem State.endAt_other {d : RegNum} {x : Nibble} {pc : ProgAddr} (h : isPcReg d = false) :
    s.endAt d x pc = .next (s.setPc pc) := by
  simp [State.endAt, h]

/-- The plain end of a write to JSR or PCL: the next word, wherever else the instruction would go (R129). -/
theorem State.endAt_plainPc {d : RegNum} {x : Nibble} {pc : ProgAddr} (h : isPcReg d = true)
    (hp : s.cfg.pcwriteScope = .movOnlyElsePlain) : s.endAt d x pc = .next s.advance := by
  simp [State.endAt, h, hp]

/-- The end of an instruction that goes on at the next word, where the write of its destination is plain (R129). -/
theorem State.endAt_plain {d : RegNum} {x : Nibble} {pc : ProgAddr}
    (h : isPcReg d = false ∨ s.cfg.pcwriteScope = .movOnlyElsePlain) (hpc : pc = s.npc) :
    s.endAt d x pc = .next (s.setPc pc) := by
  cases hd : isPcReg d
  · exact s.endAt_other hd
  · rw [s.endAt_plainPc hd (by simpa [hd] using h), hpc]; rfl

/-- What a MOV can end in (R120, R121). -/
theorem State.endMov_next {d : RegNum} {x : Nibble} {t : State} (h : s.endMov d x = .next t) :
    (isPcReg d = false ∧ t = s.advance) ∨ (d = RegNum.pcl ∧ t = s.programJump x) ∨
      (d = RegNum.jsr ∧ s.subroutineCall x = .next t) := by
  unfold State.endMov State.transfer at h
  split at h
  · rename_i hd
    split at h
    · rename_i he
      cases h; exact .inr (.inl ⟨he, rfl⟩)
    · rename_i he
      refine .inr (.inr ⟨?_, h⟩)
      simpa [isPcReg, he] using hd
  · rename_i hd
    cases h; exact .inl ⟨by simpa [isPcReg] using hd, rfl⟩

/-- What a memory-form store answers (R122, R124). -/
theorem State.storeR0_next {a : DataAddr} {t : State} (h : s.storeR0 a = .next t) :
    s.pcwriteRefuses a = false ∧ s.sfrRefuses a = false ∧ t = (s.memWrite a (s.cell 0x00)).advance := by
  unfold State.storeR0 at h
  split_ifs at h with h₁ h₂
  cases h
  exact ⟨by simpa using h₁, by simpa using h₂, by rw [s.readReg_zero]⟩

/-- What a memory-form load answers (R123, R125). -/
theorem State.loadR0_next {a : DataAddr} {t : State} (h : s.loadR0 a = .next t) :
    s.sfrRefuses a = false ∧ t = ((s.memRead a).state.writeReg 0 (s.memRead a).value).advance := by
  unfold State.loadR0 at h
  split_ifs at h with h₁
  cases h
  exact ⟨by simpa using h₁, rfl⟩

end Ending

/-! ### Compound operations -/

section Compound
variable (s : State)


@[simp] theorem State.changeRg_pc (g : Rg) (f : Nibble → Nibble) : (s.changeRg g f).pc = s.npc := by
  simp [State.changeRg, State.npc]
@[simp] theorem State.changeRg_c (g : Rg) (f : Nibble → Nibble) : (s.changeRg g f).c = s.c := by
  simp [State.changeRg]
@[simp] theorem State.changeRg_z (g : Rg) (f : Nibble → Nibble) : (s.changeRg g f).z = s.z := by
  simp [State.changeRg]
@[simp] theorem State.changeRg_v (g : Rg) (f : Nibble → Nibble) : (s.changeRg g f).v = s.v := by
  simp [State.changeRg]
@[simp] theorem State.changeRg_sp (g : Rg) (f : Nibble → Nibble) : (s.changeRg g f).sp = s.sp := by
  simp [State.changeRg]
@[simp] theorem State.changeRg_pm (g : Rg) (f : Nibble → Nibble) : (s.changeRg g f).pm = s.pm := by
  simp [State.changeRg]
@[simp] theorem State.changeRg_cfg (g : Rg) (f : Nibble → Nibble) : (s.changeRg g f).cfg = s.cfg := by
  simp [State.changeRg]
@[simp] theorem State.exchangeOne_pc (i : Nat) : (s.exchangeOne i).pc = s.pc := by
  simp [State.exchangeOne]
@[simp] theorem State.exchangeOne_c (i : Nat) : (s.exchangeOne i).c = s.c := by
  simp [State.exchangeOne]
@[simp] theorem State.exchangeOne_z (i : Nat) : (s.exchangeOne i).z = s.z := by
  simp [State.exchangeOne]
@[simp] theorem State.exchangeOne_v (i : Nat) : (s.exchangeOne i).v = s.v := by
  simp [State.exchangeOne]
@[simp] theorem State.exchangeOne_sp (i : Nat) : (s.exchangeOne i).sp = s.sp := by
  simp [State.exchangeOne]
@[simp] theorem State.exchangeOne_pm (i : Nat) : (s.exchangeOne i).pm = s.pm := by
  simp [State.exchangeOne]
@[simp] theorem State.exchangeOne_cfg (i : Nat) : (s.exchangeOne i).cfg = s.cfg := by
  simp [State.exchangeOne]
@[simp] theorem State.exchange_pc (n : Nat) : (s.exchange n).pc = s.pc := by
  induction n with
  | zero => rfl
  | succ n ih => simp [State.exchange, ih]
@[simp] theorem State.exchange_c (n : Nat) : (s.exchange n).c = s.c := by
  induction n with
  | zero => rfl
  | succ n ih => simp [State.exchange, ih]
@[simp] theorem State.exchange_z (n : Nat) : (s.exchange n).z = s.z := by
  induction n with
  | zero => rfl
  | succ n ih => simp [State.exchange, ih]
@[simp] theorem State.exchange_v (n : Nat) : (s.exchange n).v = s.v := by
  induction n with
  | zero => rfl
  | succ n ih => simp [State.exchange, ih]
@[simp] theorem State.exchange_sp (n : Nat) : (s.exchange n).sp = s.sp := by
  induction n with
  | zero => rfl
  | succ n ih => simp [State.exchange, ih]
@[simp] theorem State.exchange_pm (n : Nat) : (s.exchange n).pm = s.pm := by
  induction n with
  | zero => rfl
  | succ n ih => simp [State.exchange, ih]
@[simp] theorem State.exchange_cfg (n : Nat) : (s.exchange n).cfg = s.cfg := by
  induction n with
  | zero => rfl
  | succ n ih => simp [State.exchange, ih]
@[simp] theorem State.readReturn_pc (k : Nat) : (s.readReturn k).2.pc = s.pc := by
  simp [State.readReturn]
@[simp] theorem State.readReturn_c (k : Nat) : (s.readReturn k).2.c = s.c := by
  simp [State.readReturn]
@[simp] theorem State.readReturn_z (k : Nat) : (s.readReturn k).2.z = s.z := by
  simp [State.readReturn]
@[simp] theorem State.readReturn_v (k : Nat) : (s.readReturn k).2.v = s.v := by
  simp [State.readReturn]
@[simp] theorem State.readReturn_sp (k : Nat) : (s.readReturn k).2.sp = s.sp := by
  simp [State.readReturn]
@[simp] theorem State.readReturn_pm (k : Nat) : (s.readReturn k).2.pm = s.pm := by
  simp [State.readReturn]
@[simp] theorem State.readReturn_cfg (k : Nat) : (s.readReturn k).2.cfg = s.cfg := by
  simp [State.readReturn]
@[simp] theorem State.readReturn_dm (k : Nat) : (s.readReturn k).2.dm = s.dm := by
  simp [State.readReturn]
@[simp] theorem State.readReturn_outputs (k : Nat) : (s.readReturn k).2.outputs = s.outputs := by
  simp [State.readReturn]

theorem State.wf_pushReturn (ra : ProgAddr) (h : Memory.wf s.dm = true) : Memory.wf (s.pushReturn ra).dm = true :=
  State.wf_memWrite _ _ _ (State.wf_memWrite _ _ _ (State.wf_memWrite _ _ _ h))

theorem State.wf_changeRg (g : Rg) (f : Nibble → Nibble) (h : Memory.wf s.dm = true) :
    Memory.wf (s.changeRg g f).dm = true :=
  State.wf_memWrite _ _ _ (by simpa using h)

theorem State.wf_exchangeOne (i : Nat) (h : Memory.wf s.dm = true) : Memory.wf (s.exchangeOne i).dm = true :=
  State.wf_memWrite _ _ _ (State.wf_memWrite _ _ _ (by simpa using h))

theorem State.wf_exchange (n : Nat) (h : Memory.wf s.dm = true) : Memory.wf (s.exchange n).dm = true := by
  induction n with
  | zero => exact h
  | succ n ih => exact State.wf_exchangeOne _ _ ih

/-- BSET, BCLR and BTG change the one cell, from what it stored: OUT reads back, and R0, R1 and R2 are plain (R58, R171). -/
theorem State.changeRg_cells (g : Rg) (f : Nibble → Nibble) :
    s.changeRg g f = (s.memWrite (s.rgWriteAddr g) (f (s.cell (s.rgWriteAddr g)))).advance := by
  have hi : s.rgWriteAddr g ≠ s.inAddr := by
    unfold State.inAddr
    cases g <;> simp only [State.rgWriteAddr, State.outAddr] <;> split <;> decide
  have hd : s.drawsAt (s.rgWriteAddr g) = false := by
    cases g
    · exact s.drawsAt_regAddr 0
    · exact s.drawsAt_regAddr 1
    · exact s.drawsAt_regAddr 2
    · simp [State.drawsAt, State.rgWriteAddr]
  simp [State.changeRg, s.memRead_plain hi hd]

end Compound

end Sys2Proof.Machine
end

