-- ==== Sys2Proof/Laws/FlagV.lean ====
section
/-! SUPPORT. The reads and the endings of instructions do not depend on flag V (R28). -/

namespace Sys2Proof.Machine

theorem State.memRead_setV (s : State) (b : Bool) (a : DataAddr) :
    (s.setV b).memRead a = ⟨(s.memRead a).value, (s.memRead a).state.setV b⟩ := by
  by_cases hi : a = s.inAddr
  · cases hs : s.inputs <;> simp [State.memRead, State.readInput, State.drawNibble, hi, hs] <;> rfl
  · cases hd : s.drawsAt a
    · rw [s.memRead_plain hi hd, (s.setV b).memRead_plain (by simpa using hi) hd]; rfl
    · rw [s.memRead_draw hi hd, (s.setV b).memRead_draw (by simpa using hi) hd]; rfl

theorem State.readReg_setV (s : State) (b : Bool) (i : RegNum) :
    (s.setV b).readReg i = ⟨(s.readReg i).value, (s.readReg i).state.setV b⟩ := s.memRead_setV b _

theorem State.readPair_setV (s : State) (b : Bool) (x y : RegNum) :
    (s.setV b).readPair x y = ⟨(s.readPair x y).x, (s.readPair x y).y, (s.readPair x y).state.setV b⟩ := by
  unfold State.readPair
  simp only [State.readReg_setV]
  split_ifs <;> rfl

theorem State.exchange_setV (s : State) (b : Bool) (n : Nat) : (s.setV b).exchange n = (s.exchange n).setV b := by
  induction n with
  | zero => rfl
  | succ n ih => simp only [State.exchange, ih, State.exchangeOne, State.memRead_setV]; rfl

theorem State.subroutineCall_setV (s : State) (b : Bool) (x : Nibble) :
    AgreeButV (s.subroutineCall x) ((s.setV b).subroutineCall x) := by
  by_cases h : s.cfg.stackDepth ≤ s.sp
  · rw [s.subroutineCall_full h, (s.setV b).subroutineCall_full h]; rfl
  · have h' : s.sp < s.cfg.stackDepth := Nat.lt_of_not_le h
    rw [s.subroutineCall_room h', (s.setV b).subroutineCall_room h']; rfl

theorem State.endMov_setV (s : State) (b : Bool) (d : RegNum) (x : Nibble) :
    AgreeButV (s.endMov d x) ((s.setV b).endMov d x) := by
  unfold State.endMov State.transfer
  split_ifs
  · rfl
  · exact s.subroutineCall_setV b x
  · rfl

theorem State.endAt_setV (s : State) (b : Bool) (d : RegNum) (x : Nibble) (pc : ProgAddr) :
    AgreeButV (s.endAt d x pc) ((s.setV b).endAt d x pc) := by
  unfold State.endAt State.transfer
  simp only [State.setV_cfg]
  cases s.cfg.pcwriteScope <;> dsimp only <;> split_ifs <;> first | rfl | exact s.subroutineCall_setV b x

end Sys2Proof.Machine
end

