-- ==== Sys2Proof/Laws/Frames.lean ====
section
/-! SUPPORT. The frame of each shared operation, in the words of Safety.lean: what it answers, the one cell it writes, and
that all else stays. -/

namespace Sys2Proof.Machine

section
variable {s r t : State} {a : DataAddr} {v : Nibble} {pc : ProgAddr}

/-- A state that differs from a written one in flags and program counter alone has the frame of the write. -/
theorem State.wroteCell_of (hdm : r.dm = s.dm) (hcfg : r.cfg = s.cfg) (hout : r.outputs = s.outputs)
    (h₁ : t.dm = (r.memWrite a v).dm) (h₂ : t.pc = pc) (h₃ : t.sp = s.sp) (h₄ : t.pm = s.pm) (h₅ : t.cfg = s.cfg)
    (h₆ : t.inputs = r.inputs) (h₇ : t.draws = r.draws) (h₈ : t.outputs = (r.memWrite a v).outputs) :
    s.WroteCell r a v pc t := by
  have hcell : ∀ b, t.cell b = (r.memWrite a v).cell b := fun b => State.cell_congr h₁ b
  refine ⟨by rw [hcell, State.cell_memWrite_same], h₂, ⟨fun b hb => ?_, h₃, h₄, h₅⟩, h₆, h₇, ?_⟩
  · rw [hcell, State.cell_memWrite_other _ _ _ _ hb, State.cell_congr hdm]
  · rw [h₈, State.memWrite_outputs, State.eventsOf_congr hdm hcfg, hout]

end

variable (s : State)

/-- What ADD, ADC, SUB and SBB answer when their destination is plain (R100). -/
theorem State.arith_plain {x y : RegNum} (f : Nibble → Nibble → AluResult) (h : s.PlainDest x) :
    ∃ t, s.arith x y f = .next t ∧
      s.WroteCell (s.readPair x y).state (regAddr x) (f (s.readPair x y).x (s.readPair x y).y).r s.npc t ∧
      t.c = (f (s.readPair x y).x (s.readPair x y).y).c ∧ t.z = (f (s.readPair x y).x (s.readPair x y).y).z ∧
      t.v = (f (s.readPair x y).x (s.readPair x y).y).v := by
  generalize hr : f (s.readPair x y).x (s.readPair x y).y = r
  refine ⟨(((s.readPair x y).state.writeReg x r.r).setFlags r.c r.z r.v).setPc s.npc, ?_, ?_, rfl, rfl, rfl⟩
  · simp only [State.arith, hr]
    exact State.endAt_plain _ (by simpa [State.PlainDest] using h) (by simp [State.npc])
  · apply State.wroteCell_of <;> simp [State.writeReg]

/-- What OR, AND and XOR answer when their destination is plain (R105 to R107). -/
theorem State.logic_plain {x y : RegNum} (f : Nibble → Nibble → Nibble) (h : s.PlainDest x) :
    ∃ t, s.logic x y f = .next t ∧
      s.WroteCell (s.readPair x y).state (regAddr x) (f (s.readPair x y).x (s.readPair x y).y) s.npc t ∧
      t.c = s.c ∧ t.z = zeroFlag (f (s.readPair x y).x (s.readPair x y).y) ∧ t.v = s.v := by
  generalize hr : f (s.readPair x y).x (s.readPair x y).y = r
  refine ⟨(((s.readPair x y).state.writeReg x r).setZ (zeroFlag r)).setPc s.npc, ?_, ?_, by simp, by simp, by simp⟩
  · simp only [State.logic, hr]
    exact State.endAt_plain _ (by simpa [State.PlainDest] using h) (by simp [State.npc])
  · apply State.wroteCell_of <;> simp [State.writeReg]

/-- What the literal OR, AND and XOR answer (R155 to R157). -/
theorem State.logicR0_next (f : Nibble → Nibble) (c : Bool) :
    ∃ t, s.logicR0 f c = .next t ∧ s.WroteCell s 0x00 (f (s.cell 0x00)) s.npc t ∧
      t.c = c ∧ t.z = zeroFlag (f (s.cell 0x00)) ∧ t.v = s.v := by
  refine ⟨(((s.writeReg 0 (f (s.cell 0x00))).setC c).setZ (zeroFlag (f (s.cell 0x00)))).advance, ?_, ?_, by simp, by simp,
    by simp⟩
  · simp only [State.logicR0, State.readReg_zero]
  · apply State.wroteCell_of <;> simp [State.writeReg, State.npc, regAddr]

/-- What a memory-form store answers where no setting refuses it (R122, R124). -/
theorem State.storeR0_allowed {a : DataAddr} (h : s.StoreAllowed a) :
    ∃ t, s.storeR0 a = .next t ∧ s.WroteCell s a (s.cell 0x00) s.npc t ∧ s.SameFlags t := by
  refine ⟨(s.memWrite a (s.cell 0x00)).advance, ?_, ?_, by simp [State.SameFlags]⟩
  · simp only [State.storeR0, State.readReg_zero]
    rw [if_neg (by simp [h.1]), if_neg (by simp [h.2])]
  · apply State.wroteCell_of <;> simp [State.npc]

/-- What a memory-form load answers where no setting refuses it (R123, R125). -/
theorem State.loadR0_allowed {a : DataAddr} (h : s.LoadAllowed a) :
    ∃ t, s.loadR0 a = .next t ∧ s.WroteCell (s.memRead a).state 0x00 (s.memRead a).value s.npc t ∧ s.SameFlags t := by
  refine ⟨((s.memRead a).state.writeReg 0 (s.memRead a).value).advance, ?_, ?_, by simp [State.SameFlags]⟩
  · simp only [State.loadR0]
    rw [if_neg (by simpa [State.LoadAllowed] using h)]
  · apply State.wroteCell_of <;> simp [State.writeReg, State.npc, regAddr]

/-- What BSET, BCLR and BTG answer (R171, R173 to R175). -/
theorem State.changeRg_wrote (g : Rg) (f : Nibble → Nibble) :
    s.WroteCell s (s.rgWriteAddr g) (f (s.cell (s.rgWriteAddr g))) s.npc (s.changeRg g f) ∧ s.SameFlags (s.changeRg g f) := by
  rw [s.changeRg_cells g f]
  refine ⟨?_, by simp [State.SameFlags]⟩
  apply State.wroteCell_of <;> simp [State.npc]

end Sys2Proof.Machine
end

