-- ==== Sys2Proof/Laws/PerInstr.lean ====
section
/-! SUPPORT. The laws stated per instruction. `EncodeInRow`: the word of an instruction is covered by the row of the opcode
map (30_encoding.md R85) that carries its mnemonic. -/

namespace Sys2Proof.Laws

/-- Some row of the opcode map has the instruction's mnemonic and covers its word (R85). -/
def EncodeInRow.Statement (i : Instr) : Prop :=
  ∃ r ∈ opcodeRows, r.mnemonic = i.mnemonic ∧ r.covers (encode i) = true

theorem primary_mem {r : OpcodeRow} (h : r ∈ primaryRows) : r ∈ opcodeRows := List.mem_append_left _ h

theorem secondary_mem {r : OpcodeRow} (h : r ∈ secondaryRows) : r ∈ opcodeRows := List.mem_append_right _ h

theorem EncodeInRow.addRxRy (x y : RegNum) : EncodeInRow.Statement (.addRxRy x y) :=
  ⟨⟨"ADD_RX_RY", 0xF00, 0x100⟩, primary_mem (by simp [primaryRows]), rfl, by revert x y; decide⟩

theorem EncodeInRow.adcRxRy (x y : RegNum) : EncodeInRow.Statement (.adcRxRy x y) :=
  ⟨⟨"ADC_RX_RY", 0xF00, 0x200⟩, primary_mem (by simp [primaryRows]), rfl, by revert x y; decide⟩

theorem EncodeInRow.subRxRy (x y : RegNum) : EncodeInRow.Statement (.subRxRy x y) :=
  ⟨⟨"SUB_RX_RY", 0xF00, 0x300⟩, primary_mem (by simp [primaryRows]), rfl, by revert x y; decide⟩

theorem EncodeInRow.sbbRxRy (x y : RegNum) : EncodeInRow.Statement (.sbbRxRy x y) :=
  ⟨⟨"SBB_RX_RY", 0xF00, 0x400⟩, primary_mem (by simp [primaryRows]), rfl, by revert x y; decide⟩

theorem EncodeInRow.orRxRy (x y : RegNum) : EncodeInRow.Statement (.orRxRy x y) :=
  ⟨⟨"OR_RX_RY", 0xF00, 0x500⟩, primary_mem (by simp [primaryRows]), rfl, by revert x y; decide⟩

theorem EncodeInRow.andRxRy (x y : RegNum) : EncodeInRow.Statement (.andRxRy x y) :=
  ⟨⟨"AND_RX_RY", 0xF00, 0x600⟩, primary_mem (by simp [primaryRows]), rfl, by revert x y; decide⟩

theorem EncodeInRow.xorRxRy (x y : RegNum) : EncodeInRow.Statement (.xorRxRy x y) :=
  ⟨⟨"XOR_RX_RY", 0xF00, 0x700⟩, primary_mem (by simp [primaryRows]), rfl, by revert x y; decide⟩

theorem EncodeInRow.movRxRy (x y : RegNum) : EncodeInRow.Statement (.movRxRy x y) :=
  ⟨⟨"MOV_RX_RY", 0xF00, 0x800⟩, primary_mem (by simp [primaryRows]), rfl, by revert x y; decide⟩

theorem EncodeInRow.movRxN (x y : RegNum) : EncodeInRow.Statement (.movRxN x y) :=
  ⟨⟨"MOV_RX_N", 0xF00, 0x900⟩, primary_mem (by simp [primaryRows]), rfl, by revert x y; decide⟩

theorem EncodeInRow.movXyR0 (x y : RegNum) : EncodeInRow.Statement (.movXyR0 x y) :=
  ⟨⟨"MOV__XY__R0", 0xF00, 0xA00⟩, primary_mem (by simp [primaryRows]), rfl, by revert x y; decide⟩

theorem EncodeInRow.movR0Xy (x y : RegNum) : EncodeInRow.Statement (.movR0Xy x y) :=
  ⟨⟨"MOV_R0__XY", 0xF00, 0xB00⟩, primary_mem (by simp [primaryRows]), rfl, by revert x y; decide⟩

theorem EncodeInRow.movNnR0 (nn : BitVec 8) : EncodeInRow.Statement (.movNnR0 nn) :=
  ⟨⟨"MOV__NN__R0", 0xF00, 0xC00⟩, primary_mem (by simp [primaryRows]), rfl, by revert nn; decide⟩

theorem EncodeInRow.movR0Nn (nn : BitVec 8) : EncodeInRow.Statement (.movR0Nn nn) :=
  ⟨⟨"MOV_R0__NN", 0xF00, 0xD00⟩, primary_mem (by simp [primaryRows]), rfl, by revert nn; decide⟩

theorem EncodeInRow.movPcNn (nn : BitVec 8) : EncodeInRow.Statement (.movPcNn nn) :=
  ⟨⟨"MOV_PC_NN", 0xF00, 0xE00⟩, primary_mem (by simp [primaryRows]), rfl, by revert nn; decide⟩

theorem EncodeInRow.jr (nn : BitVec 8) : EncodeInRow.Statement (.jr nn) :=
  ⟨⟨"JR_NN", 0xF00, 0xF00⟩, primary_mem (by simp [primaryRows]), rfl, by revert nn; decide⟩

theorem EncodeInRow.cp (n : Nibble) : EncodeInRow.Statement (.cp n) :=
  ⟨⟨"CP_R0_N", 0xFF0, 0x000⟩, secondary_mem (by simp [secondaryRows]), rfl, by revert n; decide⟩

theorem EncodeInRow.addR0N (n : Nibble) : EncodeInRow.Statement (.addR0N n) :=
  ⟨⟨"ADD_R0_N", 0xFF0, 0x010⟩, secondary_mem (by simp [secondaryRows]), rfl, by revert n; decide⟩

theorem EncodeInRow.inc (y : RegNum) : EncodeInRow.Statement (.inc y) :=
  ⟨⟨"INC_RY", 0xFF0, 0x020⟩, secondary_mem (by simp [secondaryRows]), rfl, by revert y; decide⟩

theorem EncodeInRow.dec (y : RegNum) : EncodeInRow.Statement (.dec y) :=
  ⟨⟨"DEC_RY", 0xFF0, 0x030⟩, secondary_mem (by simp [secondaryRows]), rfl, by revert y; decide⟩

theorem EncodeInRow.dsz (y : RegNum) : EncodeInRow.Statement (.dsz y) :=
  ⟨⟨"DSZ_RY", 0xFF0, 0x040⟩, secondary_mem (by simp [secondaryRows]), rfl, by revert y; decide⟩

theorem EncodeInRow.orR0N (n : Nibble) : EncodeInRow.Statement (.orR0N n) :=
  ⟨⟨"OR_R0_N", 0xFF0, 0x050⟩, secondary_mem (by simp [secondaryRows]), rfl, by revert n; decide⟩

theorem EncodeInRow.andR0N (n : Nibble) : EncodeInRow.Statement (.andR0N n) :=
  ⟨⟨"AND_R0_N", 0xFF0, 0x060⟩, secondary_mem (by simp [secondaryRows]), rfl, by revert n; decide⟩

theorem EncodeInRow.xorR0N (n : Nibble) : EncodeInRow.Statement (.xorR0N n) :=
  ⟨⟨"XOR_R0_N", 0xFF0, 0x070⟩, secondary_mem (by simp [secondaryRows]), rfl, by revert n; decide⟩

theorem EncodeInRow.exr (n : Nat) : EncodeInRow.Statement (.exr n) :=
  ⟨⟨"EXR_N", 0xFF0, 0x080⟩, secondary_mem (by simp [secondaryRows]), rfl, by simp only [encode]; generalize BitVec.ofNat 4 n = y; revert y; decide⟩

theorem EncodeInRow.bit (g : Rg) (m : BitVec 2) : EncodeInRow.Statement (.bit g m) :=
  ⟨⟨"BIT_RG_M", 0xFF0, 0x090⟩, secondary_mem (by simp [secondaryRows]), rfl, by cases g <;> revert m <;> decide⟩

theorem EncodeInRow.bset (g : Rg) (m : BitVec 2) : EncodeInRow.Statement (.bset g m) :=
  ⟨⟨"BSET_RG_M", 0xFF0, 0x0A0⟩, secondary_mem (by simp [secondaryRows]), rfl, by cases g <;> revert m <;> decide⟩

theorem EncodeInRow.bclr (g : Rg) (m : BitVec 2) : EncodeInRow.Statement (.bclr g m) :=
  ⟨⟨"BCLR_RG_M", 0xFF0, 0x0B0⟩, secondary_mem (by simp [secondaryRows]), rfl, by cases g <;> revert m <;> decide⟩

theorem EncodeInRow.btg (g : Rg) (m : BitVec 2) : EncodeInRow.Statement (.btg g m) :=
  ⟨⟨"BTG_RG_M", 0xFF0, 0x0C0⟩, secondary_mem (by simp [secondaryRows]), rfl, by cases g <;> revert m <;> decide⟩

theorem EncodeInRow.rrc (y : RegNum) : EncodeInRow.Statement (.rrc y) :=
  ⟨⟨"RRC_RY", 0xFF0, 0x0D0⟩, secondary_mem (by simp [secondaryRows]), rfl, by revert y; decide⟩

theorem EncodeInRow.ret (n : Nibble) : EncodeInRow.Statement (.ret n) :=
  ⟨⟨"RET_R0_N", 0xFF0, 0x0E0⟩, secondary_mem (by simp [secondaryRows]), rfl, by revert n; decide⟩

theorem EncodeInRow.skip (f : Cond) (m : Nat) : EncodeInRow.Statement (.skip f m) :=
  ⟨⟨"SKIP_F_M", 0xFF0, 0x0F0⟩, secondary_mem (by simp [secondaryRows]), rfl, by simp only [encode]; generalize BitVec.ofNat 2 m = y; cases f <;> revert y <;> decide⟩

end Sys2Proof.Laws
end

