-- ==== Sys2Proof/Laws/Stack.lean ====
section
/-! SUPPORT. The cells that the Subroutine Call, RET and EXR touch: which addresses they are, and what the three operations do
to them. -/

namespace Sys2Proof.Machine

/-! ### Addresses -/

/-- Below 74 entries the stack stays under page 15, and its cells are where R57 puts them. -/
theorem stackAddr_toNat {k j : Nat} (hk : k < 74) (hj : j < 3) : (stackAddr k j).toNat = 16 + 3 * k + j := by
  simp [stackAddr]; omega

theorem stackAddr_ne {k j : Nat} (hk : k < 74) (hj : j < 3) (b : DataAddr) (hb : b.toNat < 16 ∨ 0xF0 ≤ b.toNat) :
    b ≠ stackAddr k j := by
  rintro rfl; rw [stackAddr_toNat hk hj] at hb; omega

theorem stackAddr_injective {k j j' : Nat} (hk : k < 74) (hj : j < 3) (hj' : j' < 3) (h : stackAddr k j = stackAddr k j') :
    j = j' := by
  have := congrArg BitVec.toNat h; rw [stackAddr_toNat hk hj, stackAddr_toNat hk hj'] at this; omega

theorem inPage15_below {a : DataAddr} (h : a.toNat < 0xF0) : inPage15 a = false := by revert a; decide

theorem alternateAddr_toNat {i : Nat} (h : i < 16) : (alternateAddr i).toNat = 0xE0 + i := by
  simp [alternateAddr]; omega

section
variable (s : State)

/-- A write below page 15 to a cell other than 0x0A gives no output event. -/
theorem State.eventsOf_none {a : DataAddr} (x : Nibble) (h : a.toNat < 0xF0) (h' : a ≠ 0x0A) : s.eventsOf a x = [] := by
  have : a ≠ s.outAddr := by
    rcases s.outAddr_cases with e | e <;> rw [e]
    · exact h'
    · rintro rfl; simp at h
  simp [State.eventsOf, inPage15_below h, this]

/-- A read below page 15 of a cell other than 0x0B takes the stored value and changes nothing. -/
theorem State.memRead_below {a : DataAddr} (h : a.toNat < 0xF0) (h' : a ≠ 0x0B) : s.memRead a = ⟨s.cell a, s⟩ := by
  apply s.memRead_plain
  · rcases s.inAddr_cases with e | e <;> rw [e]
    · exact h'
    · rintro rfl; simp at h
  · simp [State.drawsAt, inPage15_below h]

/-! ### The stack -/

/-- What a push does: the three cells of entry SP, and nothing else. -/
theorem State.pushReturn_cells (ra : ProgAddr) (h : s.sp < 74) :
    (s.pushReturn ra).cell (stackAddr s.sp 0) = lowNibble ra ∧ (s.pushReturn ra).cell (stackAddr s.sp 1) = midNibble ra ∧
      (s.pushReturn ra).cell (stackAddr s.sp 2) = highNibble ra ∧
      (∀ a, a ≠ stackAddr s.sp 0 → a ≠ stackAddr s.sp 1 → a ≠ stackAddr s.sp 2 → (s.pushReturn ra).cell a = s.cell a) ∧
      (s.pushReturn ra).outputs = s.outputs ∧ (s.pushReturn ra).inputs = s.inputs ∧ (s.pushReturn ra).draws = s.draws := by
  have ne : ∀ j j', j < 3 → j' < 3 → j ≠ j' → stackAddr s.sp j ≠ stackAddr s.sp j' :=
    fun j j' hj hj' n e => n (stackAddr_injective h hj hj' e)
  have ev : ∀ (t : State) j x, j < 3 → t.eventsOf (stackAddr s.sp j) x = [] := fun t j x hj =>
    t.eventsOf_none x (by rw [stackAddr_toNat h hj]; omega) (stackAddr_ne h hj _ (by simp)).symm
  unfold State.pushReturn
  refine ⟨?_, ?_, State.cell_memWrite_same .., ?_, ?_, by simp, by simp⟩
  · rw [State.cell_memWrite_other _ _ _ _ (ne 0 2 (by simp) (by simp) (by simp)),
      State.cell_memWrite_other _ _ _ _ (ne 0 1 (by simp) (by simp) (by simp)), State.cell_memWrite_same]
  · rw [State.cell_memWrite_other _ _ _ _ (ne 1 2 (by simp) (by simp) (by simp)), State.cell_memWrite_same]
  · intro a h0 h1 h2
    rw [State.cell_memWrite_other _ _ _ _ h2, State.cell_memWrite_other _ _ _ _ h1, State.cell_memWrite_other _ _ _ _ h0]
  · simp only [State.memWrite_outputs, ev _ 0 _ (by simp), ev _ 1 _ (by simp), ev _ 2 _ (by simp), List.append_nil]

/-- What a pop does: it reads the three cells of the entry and changes nothing. -/
theorem State.readReturn_plain {k : Nat} (h : k < 74) :
    s.readReturn k = (progAddr (s.cell (stackAddr k 2)) (s.cell (stackAddr k 1)) (s.cell (stackAddr k 0)), s) := by
  have rd : ∀ j, j < 3 → s.memRead (stackAddr k j) = ⟨s.cell (stackAddr k j), s⟩ := fun j hj =>
    s.memRead_below (by rw [stackAddr_toNat h hj]; omega) (stackAddr_ne h hj _ (by simp)).symm
  simp only [State.readReturn, rd 0 (by simp), rd 1 (by simp), rd 2 (by simp)]

/-! ### The exchange -/

/-- What one exchange does: cell i takes the alternate cell, the alternate cell takes what reading cell i gave, and nothing
else changes but what that read took and the event of writing cell i. -/
theorem State.exchangeOne_cells {i : Nat} (h : i < 16) :
    let a := s.memRead (BitVec.ofNat 8 i)
    let t := s.exchangeOne i
    t.cell (BitVec.ofNat 8 i) = s.cell (alternateAddr i) ∧ t.cell (alternateAddr i) = a.value ∧
      (∀ b, b ≠ BitVec.ofNat 8 i → b ≠ alternateAddr i → t.cell b = s.cell b) ∧
      t.inputs = a.state.inputs ∧ t.draws = a.state.draws ∧
      t.outputs = s.outputs ++ s.eventsOf (BitVec.ofNat 8 i) (s.cell (alternateAddr i)) := by
  intro a t
  have hn := alternateAddr_toNat h
  have hi : (BitVec.ofNat 8 i).toNat = i := by simp; omega
  have ne : BitVec.ofNat 8 i ≠ alternateAddr i := fun e => by have := congrArg BitVec.toNat e; rw [hi, hn] at this; omega
  have far : ∀ c : DataAddr, c.toNat < 16 → alternateAddr i ≠ c := fun c hc e => by rw [← e, hn] at hc; omega
  have hb : a.state.memRead (alternateAddr i) = ⟨s.cell (alternateAddr i), a.state⟩ := by
    rw [State.memRead_below _ (by rw [hn]; omega) (far _ (by simp))]; simp [a]
  have ht : t = (a.state.memWrite (BitVec.ofNat 8 i) (s.cell (alternateAddr i))).memWrite (alternateAddr i) a.value := by
    simp only [t, State.exchangeOne]; rw [hb]
  rw [ht]
  refine ⟨?_, State.cell_memWrite_same .., ?_, by simp, by simp, ?_⟩
  · rw [State.cell_memWrite_other _ _ _ _ ne, State.cell_memWrite_same]
  · intro b h0 h1
    rw [State.cell_memWrite_other _ _ _ _ h1, State.cell_memWrite_other _ _ _ _ h0, State.cell_memRead]
  · rw [State.memWrite_outputs, State.eventsOf_none _ _ (by rw [hn]; omega) (far _ (by simp)), State.memWrite_outputs,
      State.eventsOf_congr (s.memRead_dm _) (s.memRead_cfg _)]
    simp [a]

end

end Sys2Proof.Machine
end

