-- ==== Sys2Proof/Machine/Assembler.lean ====
section
/-! DEFINITION. The assembler syntax (30_encoding.md R90 to R92, D19): how a line is read as an instruction, and how an
instruction is spelled. Text is a list of characters. The machine does not depend on this file. -/

namespace Sys2Proof.Machine

/-- The text of a string literal given by its characters, for tables of names. -/
abbrev Text := List Char

/-- A letter in upper case: the assembler's words are case-insensitive (D19). -/
def upper (ch : Char) : Char := if 'a' ≤ ch ∧ ch ≤ 'z' then Char.ofNat (ch.toNat - 32) else ch

/-- Whether a character separates words. -/
def isSpace (ch : Char) : Bool := ch == ' ' || ch == '\t'

/-- The value of a digit, decimal or hexadecimal, in upper case. -/
def digitValue (ch : Char) : Option Nat :=
  if '0' ≤ ch ∧ ch ≤ '9' then some (ch.toNat - 48)
  else if 'A' ≤ ch ∧ ch ≤ 'F' then some (ch.toNat - 55)
  else none

/-- The number that digits spell in a base, after those already read. -/
def readDigits (base : Nat) : Nat → Text → Option Nat
  | acc, [] => some acc
  | acc, ch :: rest =>
    match digitValue ch with
    | none => none
    | some d => if d < base then readDigits base (acc * base + d) rest else none

/-- An unsigned number: decimal, or hexadecimal with the prefix 0x (R90). -/
def readNat : Text → Option Nat
  | '0' :: 'X' :: ch :: rest => readDigits 16 0 (ch :: rest)
  | ch :: rest => readDigits 10 0 (ch :: rest)
  | [] => none

/-- A number, with or without the prefix "#" (R90). -/
def readLiteral : Text → Option Nat
  | '#' :: rest => readNat rest
  | text => readNat text

/-- A literal below a bound. -/
def readBelow (bound : Nat) (text : Text) : Option Nat :=
  match readLiteral text with
  | some n => if n < bound then some n else none
  | none => none

/-- A 4-bit literal N, 0 to 15 (R86). -/
def readNibble (text : Text) : Option Nibble := (readBelow 16 text).map (BitVec.ofNat 4)

/-- An 8-bit literal NN, 0 to 255 (R86). -/
def readNn (text : Text) : Option (BitVec 8) := (readBelow 256 text).map (BitVec.ofNat 8)

/-- The signed displacement of JR, -128 to +127 (R91). -/
def readDisplacement : Text → Option (BitVec 8)
  | '-' :: rest => (readBelow 129 rest).map fun n => -BitVec.ofNat 8 n
  | '#' :: '-' :: rest => (readBelow 129 rest).map fun n => -BitVec.ofNat 8 n
  | '+' :: rest => (readBelow 128 rest).map (BitVec.ofNat 8)
  | text => (readBelow 128 text).map (BitVec.ofNat 8)

/-- A register, by number or by name (R22, R90). -/
def readReg : Text → Option RegNum
  | ['O', 'U', 'T'] => some RegNum.out
  | ['I', 'N'] => some RegNum.inp
  | ['J', 'S', 'R'] => some RegNum.jsr
  | ['P', 'C', 'L'] => some RegNum.pcl
  | ['P', 'C', 'M'] => some RegNum.pcm
  | ['P', 'C', 'H'] => some RegNum.pch
  | 'R' :: ch :: rest =>
    match readDigits 10 0 (ch :: rest) with
    | some n => if n < 16 then some (BitVec.ofNat 4 n) else none
    | none => none
  | _ => none

/-- The operand RG: R0, R1, R2 or RS (R90, R171). -/
def readRg : Text → Option Rg
  | ['R', '0'] => some .r0
  | ['R', '1'] => some .r1
  | ['R', '2'] => some .r2
  | ['R', 'S'] => some .rs
  | _ => none

/-- The condition of SKIP (R90, R178). -/
def readCond : Text → Option Cond
  | ['C'] => some .c
  | ['N', 'C'] => some .nc
  | ['Z'] => some .z
  | ['N', 'Z'] => some .nz
  | _ => none

/-- The text cut at every occurrence of a character. -/
def cutAt (sep : Char) : Text → List Text
  | [] => [[]]
  | ch :: rest =>
    match cutAt sep rest with
    | part :: parts => if ch == sep then [] :: part :: parts else (ch :: part) :: parts
    | [] => [[ch]]

/-- The inside of a bracketed operand. -/
def readBrackets : Text → Option Text
  | '[' :: rest =>
    match rest.reverse with
    | ']' :: inside => some inside.reverse
    | _ => none
  | _ => none

/-- An operand in brackets: two registers separated by a colon, or an address (R90). -/
inductive MemOperand where
  | pair (x y : RegNum)
  | direct (nn : DataAddr)
  deriving DecidableEq, Repr

/-- A bracketed operand (R90). -/
def readMem (text : Text) : Option MemOperand :=
  match readBrackets text with
  | none => none
  | some inside =>
    match cutAt ':' inside with
    | [hi, lo] =>
      match readReg hi, readReg lo with
      | some x, some y => some (.pair x y)
      | _, _ => none
    | [nn] => (readNn nn).map .direct
    | _ => none

/-- The register R0 alone. -/
def readR0 (text : Text) : Option Unit := if readReg text = some 0 then some () else none

/-- The two-operand forms of ADD, OR, AND and XOR: two registers, or R0 and a literal. -/
def readArith (reg : RegNum → RegNum → Instr) (lit : Nibble → Instr) (a b : Text) : Option Instr :=
  match readReg a, readReg b with
  | some x, some y => some (reg x y)
  | some x, none => if x = 0 then (readNibble b).map lit else none
  | none, _ => none

/-- Two register operands. -/
def readTwoRegs (reg : RegNum → RegNum → Instr) (a b : Text) : Option Instr :=
  match readReg a, readReg b with
  | some x, some y => some (reg x y)
  | _, _ => none

/-- The operands of a bit instruction: RG and the bit number 0 to 3. -/
def readBit (f : Rg → BitVec 2 → Instr) (a b : Text) : Option Instr :=
  match readRg a, readBelow 4 b with
  | some g, some m => some (f g (BitVec.ofNat 2 m))
  | _, _ => none

/-- R0 and a literal. -/
def readR0N (f : Nibble → Instr) (a b : Text) : Option Instr :=
  match readR0 a, readNibble b with
  | some _, some n => some (f n)
  | _, _ => none

/-- The forms of MOV (R90). -/
def readMov (a b : Text) : Option Instr :=
  match readMem a, readMem b with
  | some (.pair x y), none => (readR0 b).map fun _ => .movXyR0 x y
  | some (.direct nn), none => (readR0 b).map fun _ => .movNnR0 nn
  | none, some (.pair x y) => (readR0 a).map fun _ => .movR0Xy x y
  | none, some (.direct nn) => (readR0 a).map fun _ => .movR0Nn nn
  | some _, some _ => none
  | none, none =>
    if a = ['P', 'C'] then (readNn b).map .movPcNn
    else
      match readReg a, readReg b with
      | some x, some y => some (.movRxRy x y)
      | some x, none => (readNibble b).map fun n => .movRxN x n
      | none, _ => none

/-- An instruction of one operand. -/
def assembleOne (mnemonic a : Text) : Option Instr :=
  match mnemonic with
  | ['J', 'R'] => (readDisplacement a).map .jr
  | ['L', 'P', 'C'] => (readNn a).map .movPcNn
  | ['I', 'N', 'C'] => (readReg a).map .inc
  | ['D', 'E', 'C'] => (readReg a).map .dec
  | ['D', 'S', 'Z'] => (readReg a).map .dsz
  | ['R', 'R', 'C'] => (readReg a).map .rrc
  | ['E', 'X', 'R'] => (readBelow 17 a).map fun n => .exr (if n = 0 then 16 else n)
  | ['S', 'L'] => (readReg a).map Instr.sl
  | ['R', 'L', 'C'] => (readReg a).map Instr.rlc
  | ['S', 'E', 'T'] => if a = ['C'] then some Instr.setC else none
  | ['C', 'L', 'E', 'A', 'R'] => if a = ['C'] then some Instr.clearC else none
  | ['T', 'O', 'G', 'G', 'L', 'E'] => if a = ['C'] then some Instr.toggleC else none
  | _ => none

/-- An instruction of two operands. -/
def assembleTwo (mnemonic a b : Text) : Option Instr :=
  match mnemonic with
  | ['A', 'D', 'D'] => readArith .addRxRy .addR0N a b
  | ['O', 'R'] => readArith .orRxRy .orR0N a b
  | ['A', 'N', 'D'] => readArith .andRxRy .andR0N a b
  | ['X', 'O', 'R'] => readArith .xorRxRy .xorR0N a b
  | ['A', 'D', 'C'] => readTwoRegs .adcRxRy a b
  | ['S', 'U', 'B'] => readTwoRegs .subRxRy a b
  | ['S', 'B', 'B'] => readTwoRegs .sbbRxRy a b
  | ['M', 'O', 'V'] => readMov a b
  | ['C', 'P'] => readR0N .cp a b
  | ['R', 'E', 'T'] => readR0N .ret a b
  | ['B', 'I', 'T'] => readBit .bit a b
  | ['B', 'S', 'E', 'T'] => readBit .bset a b
  | ['B', 'C', 'L', 'R'] => readBit .bclr a b
  | ['B', 'T', 'G'] => readBit .btg a b
  | ['S', 'K', 'I', 'P'] =>
    match readCond a, readBelow 5 b with
    | some f, some m => some (.skip f (if m = 0 then 4 else m))
    | _, _ => none
  | _ => none

/-- The instruction that a line without its label spells (R90 to R92; log 27): the mnemonic, white space, and the operands
separated by commas. -/
def assemble (line : Text) : Option Instr :=
  let text := (line.map upper).dropWhile isSpace
  let mnemonic := text.takeWhile fun ch => !isSpace ch
  let rest := text.drop mnemonic.length
  let operands := cutAt ',' (rest.filter fun ch => !isSpace ch)
  match operands with
  | [a] => assembleOne mnemonic a
  | [a, b] => assembleTwo mnemonic a b
  | _ => none

/-! ### Spelling -/

/-- A number in decimal. -/
def spellNat (n : Nat) : Text := Nat.toDigits 10 n

/-- A register by its number. -/
def spellReg (x : RegNum) : Text := 'R' :: spellNat x.toNat

/-- A number in hexadecimal with its prefix. -/
def spellHex (n : Nat) : Text := '0' :: 'x' :: Nat.toDigits 16 n

/-- The displacement of JR, a signed number. -/
def spellSigned (nn : BitVec 8) : Text := if nn.msb then '-' :: spellNat (256 - nn.toNat) else spellNat nn.toNat

/-- The operand RG. -/
def spellRg : Rg → Text
  | .r0 => ['R', '0']
  | .r1 => ['R', '1']
  | .r2 => ['R', '2']
  | .rs => ['R', 'S']

/-- The condition of SKIP, in lower case as the source prints it. -/
def spellCond : Cond → Text
  | .c => ['c']
  | .nc => ['n', 'c']
  | .z => ['z']
  | .nz => ['n', 'z']

/-- A mnemonic and two operands. -/
def spellTwo (mnemonic a b : Text) : Text := mnemonic ++ [' '] ++ a ++ [',', ' '] ++ b

/-- A mnemonic and one operand. -/
def spellOne (mnemonic a : Text) : Text := mnemonic ++ [' '] ++ a

/-- A pair of registers in brackets. -/
def spellPair (x y : RegNum) : Text := '[' :: spellReg x ++ [':'] ++ spellReg y ++ [']']

/-- An address in brackets. -/
def spellDirect (nn : DataAddr) : Text := '[' :: spellHex nn.toNat ++ [']']

/-- The line that spells an instruction (R90). -/
def spell : Instr → Text
  | .addRxRy x y => spellTwo ['A', 'D', 'D'] (spellReg x) (spellReg y)
  | .adcRxRy x y => spellTwo ['A', 'D', 'C'] (spellReg x) (spellReg y)
  | .subRxRy x y => spellTwo ['S', 'U', 'B'] (spellReg x) (spellReg y)
  | .sbbRxRy x y => spellTwo ['S', 'B', 'B'] (spellReg x) (spellReg y)
  | .orRxRy x y => spellTwo ['O', 'R'] (spellReg x) (spellReg y)
  | .andRxRy x y => spellTwo ['A', 'N', 'D'] (spellReg x) (spellReg y)
  | .xorRxRy x y => spellTwo ['X', 'O', 'R'] (spellReg x) (spellReg y)
  | .movRxRy x y => spellTwo ['M', 'O', 'V'] (spellReg x) (spellReg y)
  | .movRxN x n => spellTwo ['M', 'O', 'V'] (spellReg x) (spellNat n.toNat)
  | .movXyR0 x y => spellTwo ['M', 'O', 'V'] (spellPair x y) (spellReg 0)
  | .movR0Xy x y => spellTwo ['M', 'O', 'V'] (spellReg 0) (spellPair x y)
  | .movNnR0 nn => spellTwo ['M', 'O', 'V'] (spellDirect nn) (spellReg 0)
  | .movR0Nn nn => spellTwo ['M', 'O', 'V'] (spellReg 0) (spellDirect nn)
  | .movPcNn nn => spellTwo ['M', 'O', 'V'] ['P', 'C'] (spellHex nn.toNat)
  | .jr nn => spellOne ['J', 'R'] (spellSigned nn)
  | .cp n => spellTwo ['C', 'P'] (spellReg 0) (spellNat n.toNat)
  | .addR0N n => spellTwo ['A', 'D', 'D'] (spellReg 0) (spellNat n.toNat)
  | .inc y => spellOne ['I', 'N', 'C'] (spellReg y)
  | .dec y => spellOne ['D', 'E', 'C'] (spellReg y)
  | .dsz y => spellOne ['D', 'S', 'Z'] (spellReg y)
  | .orR0N n => spellTwo ['O', 'R'] (spellReg 0) (spellNat n.toNat)
  | .andR0N n => spellTwo ['A', 'N', 'D'] (spellReg 0) (spellNat n.toNat)
  | .xorR0N n => spellTwo ['X', 'O', 'R'] (spellReg 0) (spellNat n.toNat)
  | .exr n => spellOne ['E', 'X', 'R'] (spellNat n)
  | .bit g m => spellTwo ['B', 'I', 'T'] (spellRg g) (spellNat m.toNat)
  | .bset g m => spellTwo ['B', 'S', 'E', 'T'] (spellRg g) (spellNat m.toNat)
  | .bclr g m => spellTwo ['B', 'C', 'L', 'R'] (spellRg g) (spellNat m.toNat)
  | .btg g m => spellTwo ['B', 'T', 'G'] (spellRg g) (spellNat m.toNat)
  | .rrc y => spellOne ['R', 'R', 'C'] (spellReg y)
  | .ret n => spellTwo ['R', 'E', 'T'] (spellReg 0) (spellNat n.toNat)
  | .skip f m => spellTwo ['S', 'K', 'I', 'P'] (spellCond f) (spellNat m)

end Sys2Proof.Machine
end

