-- ==== Sys2Proof/Tests/Slice0.lean ====
section
/-! SUPPORT. The model's own tests: one decoded word and one step of each instruction, from 95_test_vectors.md and the worked
examples of the rules; a refused term for each check of `wellFormed`; and for every statement with hypotheses a state and
operands that meet them. -/

open Sys2Proof Sys2Proof.Machine

namespace Sys2Proof.Tests

/-- A state with the given program counter, flags, SP and data cells, otherwise as at reset. -/
def start (pc : ProgAddr) (c z v : Bool) (sp : Nat) (cells : List (DataAddr × Nibble)) : State :=
  cells.foldl (fun s e => s.store e.1 e.2) (((((State.reset.setPc pc).setC c).setZ z).setV v).setSp sp)

/-- Whether an instruction answers a next state with the given property. -/
def gives (i : Instr) (s : State) (p : State → Bool) : Bool :=
  match exec i s with
  | .next t => p t
  | _ => false

/-! ### Well-formedness: an ill-formed term for each check -/

theorem test_exr_of_0_registers_refused : (Instr.exr 0).wellFormed = false := by decide
theorem test_exr_of_17_registers_refused : (Instr.exr 17).wellFormed = false := by decide
theorem test_skip_of_0_words_refused : (Instr.skip .c 0).wellFormed = false := by decide
theorem test_skip_of_5_words_refused : (Instr.skip .nz 5).wellFormed = false := by decide

/-! ### Decoding: a word of each instruction, written out from the spec -/

-- S1
theorem test_decode_addRxRy : decode 0x120 = .addRxRy 2 0 := by decide
-- S2
theorem test_decode_adcRxRy : decode 0x217 = .adcRxRy 1 7 := by decide
-- S3
theorem test_decode_subRxRy : decode 0x362 = .subRxRy 6 2 := by decide
-- S4
theorem test_decode_sbbRxRy : decode 0x453 = .sbbRxRy 5 3 := by decide
-- S5
theorem test_decode_orRxRy : decode 0x507 = .orRxRy 0 7 := by decide
-- S6
theorem test_decode_andRxRy : decode 0x6DC = .andRxRy 13 12 := by decide
-- S7
theorem test_decode_xorRxRy : decode 0x783 = .xorRxRy 8 3 := by decide
-- S8
theorem test_decode_movRxRy : decode 0x865 = .movRxRy 6 5 := by decide
-- S9
theorem test_decode_movRxN : decode 0x997 = .movRxN 9 7 := by decide
-- S10
theorem test_decode_movXyR0 : decode 0xA64 = .movXyR0 6 4 := by decide
-- S11
theorem test_decode_movR0Xy : decode 0xB57 = .movR0Xy 5 7 := by decide
-- S12
theorem test_decode_movNnR0 : decode 0xC19 = .movNnR0 0x19 := by decide
-- S13
theorem test_decode_movR0Nn : decode 0xDE2 = .movR0Nn 0xE2 := by decide
-- S14
theorem test_decode_movPcNn : decode 0xE31 = .movPcNn 0x31 := by decide
-- S17, JR -17
theorem test_decode_jr : decode 0xFEF = .jr 0xEF := by decide
-- S15
theorem test_decode_cp : decode 0x005 = .cp 5 := by decide
-- S16
theorem test_decode_addR0N : decode 0x01E = .addR0N 14 := by decide
-- R152
theorem test_decode_inc : decode 0x024 = .inc 4 := by decide
-- R153
theorem test_decode_dec : decode 0x037 = .dec 7 := by decide
-- S17
theorem test_decode_dsz : decode 0x043 = .dsz 3 := by decide
-- S19
theorem test_decode_orR0N : decode 0x056 = .orR0N 6 := by decide
-- S20
theorem test_decode_andR0N : decode 0x06A = .andR0N 10 := by decide
-- S21
theorem test_decode_xorR0N : decode 0x073 = .xorR0N 3 := by decide
-- 2.13
theorem test_decode_exr : decode 0x080 = .exr 16 := by decide
-- S22
theorem test_decode_bit : decode 0x09B = .bit .r2 3 := by decide
-- S23
theorem test_decode_bset : decode 0x0A6 = .bset .r1 2 := by decide
-- R174
theorem test_decode_bclr : decode 0x0B0 = .bclr .r0 0 := by decide
-- 2.9
theorem test_decode_btg : decode 0x0CC = .btg .rs 0 := by decide
-- R176
theorem test_decode_rrc : decode 0x0D5 = .rrc 5 := by decide
-- S24
theorem test_decode_ret : decode 0x0E4 = .ret 4 := by decide
-- 2.12
theorem test_decode_skip : decode 0x0F4 = .skip .nc 4 := by decide

/-! ### One step of each instruction -/

-- S1
theorem test_adds_source_example :
    gives (.addRxRy 2 0) (start 0 false false false 0 [(0, 11), (2, 7)]) (fun t => t.cell 2 == 2 && t.c && !t.z && !t.v && t.cell 0 == 11) = true := by decide
-- S2
theorem test_adc_source_example :
    gives (.adcRxRy 1 7) (start 0 true false false 0 [(1, 4), (7, 11)]) (fun t => t.cell 1 == 0 && t.c && t.z && !t.v) = true := by decide
-- 2.1: SUB 3 - 5
theorem test_sub_borrow :
    gives (.subRxRy 1 2) (start 0 true false true 0 [(1, 3), (2, 5)]) (fun t => t.cell 1 == 14 && !t.c && !t.z && !t.v) = true := by decide
-- S4
theorem test_sbb_source_example :
    gives (.sbbRxRy 5 3) (start 0 false false false 0 [(3, 3), (5, 14)]) (fun t => t.cell 5 == 10 && t.c && !t.z && !t.v) = true := by decide
-- S5
theorem test_or_source_example :
    gives (.orRxRy 0 7) (start 0 false true false 0 [(0, 5), (7, 12)]) (fun t => t.cell 0 == 13 && !t.z && !t.c && !t.v) = true := by decide
-- S6
theorem test_and_source_example :
    gives (.andRxRy 13 12) (start 7 false true false 0 [(13, 14), (12, 7)]) (fun t => t.cell 13 == 6 && !t.z && t.pc == 8) = true := by decide
-- 2.2: XOR R4,R4
theorem test_xor_clears_keeping_carry :
    gives (.xorRxRy 4 4) (start 0 true false false 0 [(4, 11)]) (fun t => t.cell 4 == 0 && t.c && t.z && !t.v) = true := by decide
-- S8
theorem test_mov_register_source_example :
    gives (.movRxRy 6 5) (start 0 false false false 0 [(5, 2), (6, 14)]) (fun t => t.cell 6 == 2 && t.cell 5 == 2) = true := by decide
-- 2.3: MOV R12,4 at 0x0FF
theorem test_mov_literal_calls :
    gives (.movRxN 12 4) (start 0x0FF false false false 1 [(14, 3), (15, 1), (0x13, 9)]) (fun t => t.pc == 0x134 && t.sp == 2 && t.cell 0x13 == 0 && t.cell 0x15 == 1 && t.cell 12 == 4) = true := by decide
-- 2.3: MOV R13,R2
theorem test_mov_register_jumps :
    gives (.movRxRy 13 2) (start 0x345 false false false 0 [(2, 6), (14, 2), (15, 7)]) (fun t => t.pc == 0x726 && t.cell 13 == 6 && t.sp == 0) = true := by decide
-- S10
theorem test_store_indirect_source_example :
    gives (.movXyR0 6 4) (start 0 false false false 0 [(0, 15), (4, 2), (6, 1), (0x12, 5)]) (fun t => t.cell 0x12 == 15 && t.cell 0 == 15) = true := by decide
-- 2.3: MOV R0,[R0:R1]
theorem test_load_indirect_uses_old_r0 :
    gives (.movR0Xy 0 1) (start 0 false false false 0 [(1, 5), (5, 12)]) (fun t => t.cell 0 == 12) = true := by decide
-- 2.3: MOV [0x03],R0
theorem test_store_direct_to_register :
    gives (.movNnR0 0x03) (start 0 false false false 0 [(0, 5)]) (fun t => t.cell 3 == 5) = true := by decide
-- S13
theorem test_load_direct_source_example :
    gives (.movR0Nn 0xE2) (start 0 false false false 0 [(0, 3), (0xE2, 14)]) (fun t => t.cell 0 == 14) = true := by decide
-- S14
theorem test_mov_pc_source_example :
    gives (.movPcNn 0x31) (start 9 false false false 0 [(14, 6), (15, 10)]) (fun t => t.cell 14 == 1 && t.cell 15 == 3 && t.pc == 10) = true := by decide
-- 2.4: -128 at 0x010
theorem test_jr_wraps_backwards :
    gives (.jr 0x80) (start 0x010 false false false 0 []) (fun t => t.pc == 0xF91) = true := by decide
-- 2.5: CP R0,9
theorem test_cp_less_than :
    gives (.cp 9) (start 0 true true true 0 [(0, 3)]) (fun t => !t.c && !t.z && t.v && t.cell 0 == 3) = true := by decide
-- 2.5: ADD R0,1
theorem test_add_literal_overflow :
    gives (.addR0N 1) (start 0 false false false 0 [(0, 7)]) (fun t => t.cell 0 == 8 && !t.c && !t.z && t.v) = true := by decide
-- 2.6: INC R4
theorem test_inc_wraps_keeping_carry :
    gives (.inc 4) (start 0 true false false 0 [(4, 15)]) (fun t => t.cell 4 == 0 && t.z && t.c) = true := by decide
-- 2.6: DEC R7
theorem test_dec_of_zero :
    gives (.dec 7) (start 0 true true false 0 []) (fun t => t.cell 7 == 15 && !t.c && !t.z) = true := by decide
-- S17
theorem test_dsz_source_example :
    gives (.dsz 3) (start 0xA80 true false false 0 [(3, 1)]) (fun t => t.cell 3 == 0 && t.pc == 0xA82 && t.c && !t.z) = true := by decide
-- R129, plain: a write to R13 ends with pc <- npc, and so the skip of R154 is not taken (log 8)
theorem test_dsz_of_pcl_goes_on :
    gives (.dsz 13) (start 0x100 false false false 0 [(13, 1)]) (fun t => t.cell 13 == 0 && t.pc == 0x101) = true := by decide
-- 2.7: OR R0,0
theorem test_or_literal_sets_carry :
    gives (.orR0N 0) (start 0 false true false 0 [(0, 5)]) (fun t => t.cell 0 == 5 && t.c && !t.z) = true := by decide
-- S20
theorem test_and_literal_source_example :
    gives (.andR0N 10) (start 0 true true false 0 [(0, 12)]) (fun t => t.cell 0 == 8 && !t.c && !t.z) = true := by decide
-- 2.7: XOR R0,15
theorem test_xor_literal_toggles_carry :
    gives (.xorR0N 15) (start 0 true true false 0 [(0, 10)]) (fun t => t.cell 0 == 5 && !t.c && !t.z) = true := by decide
-- R170
theorem test_exr_two_registers :
    gives (.exr 2) (start 0 false false false 0 [(0, 1), (1, 2), (2, 3), (0xE0, 8), (0xE1, 9), (0xE2, 10)]) (fun t => t.cell 0 == 8 && t.cell 1 == 9 && t.cell 2 == 3 && t.cell 0xE0 == 1 && t.cell 0xE1 == 2 && t.cell 0xE2 == 10) = true := by decide
-- S22
theorem test_bit_source_example :
    gives (.bit .r2 3) (start 0 false true false 0 [(2, 13)]) (fun t => !t.z && !t.c && t.cell 2 == 13) = true := by decide
-- 2.9: BSET RS,2
theorem test_bset_out_in_page_15 :
    gives (.bset .rs 2) (start 0 false false false 0 [(0xF3, 2), (0xFA, 1), (10, 6)]) (fun t => t.cell 0xFA == 5 && t.cell 10 == 6 && t.outputs == [⟨0xFA, 5⟩]) = true := by decide
-- R174
theorem test_bclr_derived_example :
    gives (.bclr .r0 0) (start 0 false false false 0 [(0, 7)]) (fun t => t.cell 0 == 6 && !t.z) = true := by decide
-- 2.9: BTG RS,0
theorem test_btg_out_in_page_0 :
    gives (.btg .rs 0) (start 0 false false false 0 [(10, 4)]) (fun t => t.cell 10 == 5 && t.outputs == [⟨0x0A, 5⟩]) = true := by decide
-- 2.10
theorem test_rrc_to_zero :
    gives (.rrc 5) (start 0 false false false 0 [(5, 1)]) (fun t => t.cell 5 == 0 && t.c && t.z) = true := by decide
-- S24
theorem test_ret_source_example :
    gives (.ret 4) (start 0x25C false false false 2 [(0, 10), (0x10, 15), (0x13, 11), (0x14, 12), (0x15, 1)]) (fun t => t.cell 0 == 4 && t.sp == 1 && t.pc == 0x1CB) = true := by decide
-- 2.12: SKIP c,4 at 0xFFE
theorem test_skip_wraps :
    gives (.skip .c 4) (start 0xFFE true false false 0 []) (fun t => t.pc == 0x003) = true := by decide

/-! ### The step after reset -/

theorem test_step_runs_the_word_loaded : step (State.reset.withFetchWord 16 0x9F7) = exec (.movRxN 15 7) (State.reset.load 0 0x9F7) := by
  rfl
theorem test_table_word : decodeTableWord 16 0xFFF = some (.jr 0xFF) := by decide
theorem test_table_word_above_12_bits : decodeTableWord 16 0x1000 = none := by decide
theorem test_reset_has_nothing_loaded : step State.reset = .fault .unloadedWord := by rfl

/-! ### The assembler -/

-- S25
theorem test_assemble_skip : assemble "SKIP nc, #2".toList = some (.skip .nc 2) := by decide
-- S17: JR -17 is printed with the word 1111 1110 1111
theorem test_assemble_jr : assemble "JR -17".toList = some (.jr 0xEF) := by decide
-- R92: LPC NN is MOV PC,NN
theorem test_assemble_lpc : assemble "lpc 0x31".toList = some (.movPcNn 0x31) := by decide

/-! ### Witnesses: states and operands that meet the hypotheses of the statements -/

/-- The parameters at reset but for `PCWRITE_SCOPE` and `SFR_MODEL`. -/
def under (scope : PcwriteScope) (sfr : SfrModel) (s : State) : State :=
  { s with cfg := { s.cfg with pcwriteScope := scope, sfrModel := sfr } }

theorem resetValid : State.reset.cfg.Valid := by
  refine ⟨?_, ?_, ?_, ?_, ?_⟩ <;> decide

theorem witness_DecodeOfEncode : (Instr.exr 16).wellFormed = true ∧ (Instr.skip .nz 4).wellFormed = true := by decide
theorem witness_StepRunsDecodedInstruction :
    (Instr.exr 16).wellFormed = true ∧ (State.reset.load 0 0x080).fetch = some (encode (.exr 16)) := by decide
theorem witness_UnloadedWordFaults : State.reset.fetch = none := by decide
theorem witness_PlainDest_ordinary : State.reset.PlainDest 11 ∧ State.reset.PlainDest 14 := ⟨.inl rfl, .inl rfl⟩
theorem witness_PlainDest_of_pcl : State.reset.PlainDest RegNum.pcl ∧ State.reset.PlainDest RegNum.jsr := ⟨.inr rfl, .inr rfl⟩
theorem witness_MovRegister_MovLiteral : isPcReg 11 = false ∧ isPcReg 14 = false := by decide
theorem witness_SubroutineCall : (start 0 false false false 4 []).cfg.Valid ∧
    (start 0 false false false 4 []).sp < (start 0 false false false 4 []).cfg.stackDepth := ⟨resetValid, by decide⟩
theorem witness_CallAtFullStackFaults :
    (start 0 false false false 5 []).sp = (start 0 false false false 5 []).cfg.stackDepth := by decide
theorem witness_Store_and_Load :
    State.reset.StoreAllowed 0x0C ∧ State.reset.StoreAllowed 0xF0 ∧ State.reset.LoadAllowed 0xFF ∧
      (under .movOnlyElseRefuse .strict State.reset).StoreAllowed 0xFA ∧
      (under .movOnlyElseRefuse .strict State.reset).LoadAllowed 0xF3 := by
  refine ⟨⟨?_, ?_⟩, ⟨?_, ?_⟩, ?_, ⟨?_, ?_⟩, ?_⟩ <;> rfl
theorem witness_StoreIndirect :
    State.reset.StoreAllowed ((State.reset.readPair 1 2).x ++ (State.reset.readPair 1 2).y) := by constructor <;> rfl
theorem witness_LoadIndirect :
    State.reset.LoadAllowed ((State.reset.readPair 1 2).x ++ (State.reset.readPair 1 2).y) := by rfl
theorem witness_SkipOnCondition : (Instr.skip .nc 1).wellFormed = true ∧ (Instr.skip .z 4).wellFormed = true := by decide
theorem witness_AddLiteral : State.reset.cfg.addiWritesV = true ∧
    { State.reset with cfg := { State.reset.cfg with addiWritesV := false } }.cfg.addiWritesV = false := by decide
theorem witness_ExchangeRegisters : (Instr.exr 16).wellFormed = true ∧ State.reset.cfg.Valid ∧
    (State.reset.cfg.pcwriteScope = .movOnlyElseRefuse → 16 ≤ 12) := ⟨by decide, resetValid, by decide⟩
theorem witness_ExchangeRegisters_refusing : (Instr.exr 12).wellFormed = true ∧
    (under .movOnlyElseRefuse .strict State.reset).cfg.Valid ∧
    ((under .movOnlyElseRefuse .strict State.reset).cfg.pcwriteScope = .movOnlyElseRefuse → 12 ≤ 12) :=
  ⟨by decide, resetValid, by decide⟩
theorem witness_ExchangeTwiceRestores : (Instr.exr 16).wellFormed = true ∧ (start 0 false false false 0 [(0xF3, 2)]).cfg.Valid ∧
    (start 0 false false false 0 [(0xF3, 2)]).wrFlags1 = true := ⟨by decide, resetValid, by decide⟩
theorem witness_FiveRotationsRestore : State.reset.PlainDest 13 ∧ regAddr 13 ≠ State.reset.inAddr ∧ State.reset.cfg.Valid :=
  ⟨.inr rfl, by decide, resetValid⟩
theorem witness_ReturnFromSubroutine : (start 0 false false false 5 []).cfg.Valid ∧ 0 < (start 0 false false false 5 []).sp ∧
    (start 0 false false false 5 []).sp ≤ (start 0 false false false 5 []).cfg.stackDepth := ⟨resetValid, by decide, by decide⟩
theorem witness_ReturnAtLevelZeroFaults : State.reset.sp = 0 := rfl
theorem witness_ReturnUndoesCall :
    ∃ t, State.reset.cfg.Valid ∧ exec (.movRxN RegNum.jsr 9) State.reset = .next t ∧ t.cfg = t.cfg ∧ t.sp = t.sp ∧
      ∀ k < 3, t.cell (stackAddr State.reset.sp k) = t.cell (stackAddr State.reset.sp k) :=
  ⟨_, resetValid, rfl, rfl, rfl, fun _ _ => rfl⟩
theorem witness_OpenPcWritesRefused : (under .movOnlyElseRefuse .drawsAndEvents State.reset).cfg.pcwriteScope = .movOnlyElseRefuse ∧
    (Instr.dsz 13).openDest = some 13 ∧ (Instr.addRxRy 12 0).openDest = some 12 ∧ isPcReg 12 = true ∧ isPcReg 13 = true ∧
    ((start 0 false false false 0 [(2, 12)]).readPair 1 2).x ++ ((start 0 false false false 0 [(2, 12)]).readPair 1 2).y = 0x0C#8 ∧
    ((start 0 false false false 0 [(2, 13)]).readPair 1 2).x ++ ((start 0 false false false 0 [(2, 13)]).readPair 1 2).y = 0x0D#8 := by
  decide
theorem witness_OpenPcWritesTransfer : (under .allRegisterWrites .drawsAndEvents State.reset).cfg.pcwriteScope = .allRegisterWrites ∧
    (Instr.inc 12).openDest = some RegNum.jsr ∧ (Instr.rrc 13).openDest = some RegNum.pcl ∧ (Instr.dec 14).openDest = some 14 := by
  decide
theorem witness_StrictPage15Refused :
    (under .movOnlyElsePlain .strict (start 0 false false false 0 [(1, 15)])).cfg.sfrModel = .strict ∧ 0xF0 ≤ (0xF0 : DataAddr).toNat ∧
      (0xF0 : DataAddr) ≠ 0xFA ∧ (0xF0 : DataAddr) ≠ 0xFB ∧ (0xF0 : DataAddr) ≠ State.reset.cfg.wrflagsAddr ∧
      ((under .movOnlyElsePlain .strict (start 0 false false false 0 [(1, 15)])).readPair 1 2).x ++
        ((under .movOnlyElsePlain .strict (start 0 false false false 0 [(1, 15)])).readPair 1 2).y = 0xF0#8 := by
  decide
theorem witness_PortsFollowWrflags : (State.reset.cell State.reset.cfg.wrflagsAddr).getLsbD 1 = false ∧
    ((start 0 false false false 0 [(0xF3, 2)]).cell (start 0 false false false 0 [(0xF3, 2)]).cfg.wrflagsAddr).getLsbD 1 = true := by
  decide
theorem witness_ReadsOfDataMemory_input : State.reset.cfg.Valid ∧ (0x0B : DataAddr) = State.reset.inAddr ∧ State.reset.inputs = [] ∧
    (0x0B : DataAddr) = (State.reset.setInputs [5, 6]).inAddr ∧ (State.reset.setInputs [5, 6]).inputs = 5 :: [6] :=
  ⟨resetValid, by decide, by decide, by decide, by decide⟩
theorem witness_ReadsOfDataMemory_page15 : (0xF0 : DataAddr) ≠ State.reset.inAddr ∧ 0xF0 ≤ (0xF0 : DataAddr).toNat ∧
    (0xF0 : DataAddr) ≠ State.reset.cfg.wrflagsAddr ∧ (0xF0 : DataAddr) ≠ State.reset.outAddr := by decide
theorem witness_ReadsOfDataMemory_plain : (0xEF : DataAddr) ≠ State.reset.inAddr ∧ (0xEF : DataAddr).toNat < 0xF0 ∧
    (0xF3 : DataAddr) = State.reset.cfg.wrflagsAddr ∧ (0xFA : DataAddr) = (start 0 false false false 0 [(0xF3, 2)]).outAddr := by
  decide
theorem witness_RegisterOperandReads : regAddr 10 ≠ State.reset.inAddr ∧ regAddr 12 ≠ State.reset.inAddr ∧
    regAddr 11 = State.reset.inAddr ∧ (11 : RegNum) ≠ 12 := by decide
theorem witness_WritesOfDataMemory : (0x0B : DataAddr) ≠ 0x0A ∧ (0x0A : DataAddr) = State.reset.outAddr := by decide
theorem witness_CanonicalMemoryIsUnique : Memory.wf [(0, 1), (255, 15)] = true := by decide
theorem witness_StepKeepsInvariant :
    ∃ t, (State.reset.load 0 0x9C4).Inv ∧ step (State.reset.load 0 0x9C4) = .next t := ⟨_, ⟨rfl, rfl, by decide⟩, rfl⟩
theorem witness_ProgramMemoryIsConstant : ∃ t, Reaches (State.reset.load 0 0xFFF) t ∧ Steps (State.reset.load 0 0xFFF) t :=
  ⟨_, .step (.here _) rfl, rfl⟩
theorem witness_OnlyListedFlagWriters : ∃ t, exec (.inc 4) State.reset = .next t ∧
    (Instr.inc 4).writesC State.reset.cfg = false ∧ (Instr.inc 4).writesV State.reset.cfg = false ∧
    (Instr.dsz 4).writesZ = false := ⟨_, rfl, rfl, rfl, rfl⟩
theorem witness_OnlyListedBranches : ∃ t, exec (.exr 16) State.reset = .next t ∧ ¬(Instr.exr 16).mayBranch State.reset.cfg :=
  ⟨_, rfl, by simp [Instr.mayBranch, Instr.transfersVia, Instr.movDest, Instr.openDest]⟩
theorem witness_OnlyCallAndReturnMoveSp : ∃ t, exec (.movRxN RegNum.jsr 0) State.reset = .next t := ⟨_, rfl⟩
theorem witness_InstructionsComplete :
    State.reset.cfg.pcwriteScope ≠ .movOnlyElseRefuse ∧ State.reset.cfg.sfrModel ≠ .strict := by decide

end Sys2Proof.Tests
end

/-! ### OR, AND and XOR of two registers (40_alu_register.md R105 to R107)

The three share `State.logic`: what that answers at a plain destination is said once, in the words of
the statements, and each instruction adds its word, its operation and its reading of Z. -/

namespace Sys2Proof.Machine

/-- Z is set exactly when the result is 0 (R100). -/
@[simp] theorem zeroFlag_eq_true_iff (r : Nibble) : zeroFlag r = true ↔ r = 0 := by
  simp [zeroFlag]

theorem exec_orRxRy (x y : RegNum) (s : State) : exec (.orRxRy x y) s = s.logic x y fun a b => a ||| b := rfl

theorem exec_andRxRy (x y : RegNum) (s : State) : exec (.andRxRy x y) s = s.logic x y fun a b => a &&& b := rfl

theorem exec_xorRxRy (x y : RegNum) (s : State) : exec (.xorRxRy x y) s = s.logic x y fun a b => a ^^^ b := rfl

/-- An instruction whose meaning is `State.logic` writes RX alone, goes on at the next word, sets Z by its result and leaves
C and V (R105). -/
theorem exec_logic_plain {i : Instr} {x y : RegNum} {s : State} {f : Nibble → Nibble → Nibble}
    (hexec : exec i s = s.logic x y f) (hplain : s.PlainDest x) :
    let p := s.readPair x y
    ∃ t, exec i s = .next t ∧ s.WroteCell p.state (regAddr x) (f p.x p.y) (s.pc + 1) t ∧
      (t.z = true ↔ f p.x p.y = 0) ∧ t.c = s.c ∧ t.v = s.v := by
  obtain ⟨t, hnext, hwrote, hc, hz, hv⟩ := s.logic_plain (y := y) f hplain
  exact ⟨t, hexec.trans hnext, hwrote, by rw [hz, zeroFlag_eq_true_iff], hc, hv⟩

/-- Settles O11. -/
theorem orRegisters : Obligations.OrRegisters :=
  ⟨fun _ _ => rfl, fun x y s hplain => exec_logic_plain (exec_orRxRy x y s) hplain⟩

/-- Settles O12. -/
theorem andRegisters : Obligations.AndRegisters :=
  ⟨fun _ _ => rfl, fun x y s hplain => exec_logic_plain (exec_andRxRy x y s) hplain⟩

/-- Settles O13: the exclusive OR is 0 exactly when the operands are equal. -/
theorem xorRegisters : Obligations.XorRegisters := by
  refine ⟨fun _ _ => rfl, fun x y s hplain => ?_⟩
  obtain ⟨t, hnext, hwrote, hz, hc, hv⟩ := exec_logic_plain (exec_xorRxRy x y s) hplain
  exact ⟨t, hnext, hwrote, hz.trans BitVec.xor_eq_zero_iff, hc, hv⟩

end Sys2Proof.Machine

/-! ### The memory forms of MOV, and MOV PC,NN (41_mov.md R122 to R126)

The store and the load of R0 are said once in the frames of `State.storeR0` and `State.loadR0`. The direct forms are those
as they stand; the indirect forms run them in the state after RX and RY are read, and what is added here is that the read
moves neither the frame nor what the settings refuse. -/

namespace Sys2Proof.Machine

theorem exec_movXyR0 (x y : RegNum) (s : State) :
    exec (.movXyR0 x y) s = (s.readPair x y).state.storeR0 (pairAddr (s.readPair x y).x (s.readPair x y).y) := rfl

theorem exec_movR0Xy (x y : RegNum) (s : State) :
    exec (.movR0Xy x y) s = (s.readPair x y).state.loadR0 (pairAddr (s.readPair x y).x (s.readPair x y).y) := rfl

theorem exec_movNnR0 (nn : DataAddr) (s : State) : exec (.movNnR0 nn) s = s.storeR0 nn := rfl

theorem exec_movR0Nn (nn : DataAddr) (s : State) : exec (.movR0Nn nn) s = s.loadR0 nn := rfl

theorem exec_movPcNn (nn : BitVec 8) (s : State) :
    exec (.movPcNn nn) s =
      .next ((s.writeReg RegNum.pcm (nn.extractLsb' 0 4)).writeReg RegNum.pch (nn.extractLsb' 4 4)).advance := rfl

section AfterReads
variable (s : State) (x y : RegNum)

@[simp] theorem State.npc_readPair : (s.readPair x y).state.npc = s.npc := by simp [State.npc]

/-- Whether a store is refused depends on the parameters alone (R59, R129). -/
theorem State.storeAllowed_readPair (a : DataAddr) : (s.readPair x y).state.StoreAllowed a ↔ s.StoreAllowed a := by
  simp [State.StoreAllowed, State.pcwriteRefuses, State.sfrRefuses]

/-- Whether a load is refused depends on the parameters alone (R59). -/
theorem State.loadAllowed_readPair (a : DataAddr) : (s.readPair x y).state.LoadAllowed a ↔ s.LoadAllowed a := by
  simp [State.LoadAllowed, State.sfrRefuses]

/-- A read of two registers moves no flag. -/
theorem State.sameFlags_readPair (t : State) : (s.readPair x y).state.SameFlags t ↔ s.SameFlags t := by
  simp [State.SameFlags]

/-- One cell written after two registers are read is one cell written: a read takes inputs and draws, which `r` counts, and
changes nothing that the frame speaks of. -/
theorem State.wroteCell_readPair {r t : State} {a : DataAddr} {v : Nibble} {pc : ProgAddr} :
    (s.readPair x y).state.WroteCell r a v pc t ↔ s.WroteCell r a v pc t := by
  simp [State.WroteCell, State.SameBut, State.Outside, State.eventsOf_congr (s.readPair_dm x y) (s.readPair_cfg x y)]

end AfterReads

/-- No register but R10 is ever the OUT location (R58). -/
theorem State.regAddr_ne_outAddr (s : State) {i : RegNum} (h : i ≠ RegNum.out) : regAddr i ≠ s.outAddr := by
  have key : ∀ i : RegNum, i ≠ RegNum.out → regAddr i ≠ 0x0A ∧ regAddr i ≠ 0xFA := by decide
  obtain ⟨hpage0, hpage15⟩ := key i h
  rcases s.outAddr_cases with hout | hout <;> rw [hout]
  exacts [hpage0, hpage15]

/-- A write to a register other than R10 gives no output event (R58, R59). -/
theorem State.eventsOf_regAddr (s : State) {i : RegNum} (h : i ≠ RegNum.out) (v : Nibble) :
    s.eventsOf (regAddr i) v = [] := by
  simp [State.eventsOf, s.regAddr_ne_outAddr h, regAddr_not_page15]

/-- The high and the low nibble of a literal NN, joined, are NN (R51). -/
theorem highNibble_append_lowNibble (nn : BitVec 8) : nn.extractLsb' 4 4 ++ nn.extractLsb' 0 4 = nn :=
  (BitVec.extractLsb'_append_extractLsb'_eq_extractLsb' (start₁ := 0) (len₁ := 4) rfl).trans BitVec.extractLsb'_eq_self

/-- What two writes to different registers leave: the two values and every other cell. -/
theorem State.cell_writeReg_writeReg (s : State) {i j : RegNum} (hij : regAddr i ≠ regAddr j) (v w : Nibble) :
    ((s.writeReg i v).writeReg j w).cell (regAddr i) = v ∧ ((s.writeReg i v).writeReg j w).cell (regAddr j) = w ∧
      ∀ a, a ≠ regAddr i → a ≠ regAddr j → ((s.writeReg i v).writeReg j w).cell a = s.cell a := by
  refine ⟨?_, State.cell_writeReg_same _ _ _, fun a hi hj => ?_⟩
  · rw [State.cell_writeReg_other _ _ _ _ hij, State.cell_writeReg_same]
  · rw [State.cell_writeReg_other _ _ _ _ hj, State.cell_writeReg_other _ _ _ _ hi]

/-- Settles O20: the store of R0 in the state after RX and RY are read, whose cells are those before. -/
theorem storeIndirect : Obligations.StoreIndirect := by
  refine ⟨fun _ _ => rfl, ?_⟩
  intro x y s p a hallowed
  obtain ⟨t, hnext, hwrote, hflags⟩ := p.state.storeR0_allowed ((s.storeAllowed_readPair x y a).mpr hallowed)
  rw [State.npc_readPair, State.cell_readPair] at hwrote
  exact ⟨t, (exec_movXyR0 x y s).trans hnext, (s.wroteCell_readPair x y).mp hwrote, (s.sameFlags_readPair x y t).mp hflags⟩

/-- Settles O21: the load of R0 in the state after RX and RY are read, so that the address has the old R0. -/
theorem loadIndirect : Obligations.LoadIndirect := by
  refine ⟨fun _ _ => rfl, ?_⟩
  intro x y s p a r hallowed
  obtain ⟨t, hnext, hwrote, hflags⟩ := p.state.loadR0_allowed ((s.loadAllowed_readPair x y a).mpr hallowed)
  rw [State.npc_readPair] at hwrote
  exact ⟨t, (exec_movR0Xy x y s).trans hnext, (s.wroteCell_readPair x y).mp hwrote, (s.sameFlags_readPair x y t).mp hflags⟩

/-- Settles O22: the store of R0 at NN. -/
theorem storeDirect : Obligations.StoreDirect := by
  refine ⟨fun _ => rfl, fun nn s hallowed => ?_⟩
  obtain ⟨t, hnext, hwrote, hflags⟩ := s.storeR0_allowed hallowed
  exact ⟨t, (exec_movNnR0 nn s).trans hnext, hwrote, hflags⟩

/-- Settles O23: the load of R0 from NN. -/
theorem loadDirect : Obligations.LoadDirect := by
  refine ⟨fun _ => rfl, fun nn s hallowed => ?_⟩
  obtain ⟨t, hnext, hwrote, hflags⟩ := s.loadR0_allowed hallowed
  exact ⟨t, (exec_movR0Nn nn s).trans hnext, hwrote, hflags⟩

/-- Settles O24: two register writes and the advance; neither R14 nor R15 is OUT, so nothing is seen outside. -/
theorem movPcLoadsPcmPch : Obligations.MovPcLoadsPcmPch := by
  refine ⟨fun _ => rfl, fun nn s => ⟨_, exec_movPcNn nn s, ?_⟩⟩
  have hne : regAddr RegNum.pcm ≠ regAddr RegNum.pch := by decide
  obtain ⟨hpcm, hpch, hother⟩ := s.cell_writeReg_writeReg hne (nn.extractLsb' 0 4) (nn.extractLsb' 4 4)
  have hpcm_event (u : State) (v : Nibble) := u.eventsOf_regAddr (i := RegNum.pcm) (by decide) v
  have hpch_event (u : State) (v : Nibble) := u.eventsOf_regAddr (i := RegNum.pch) (by decide) v
  refine ⟨?cells, by simp [State.npc], ⟨?frame, by simp, by simp, by simp⟩, by simp [State.SameFlags], ?outside⟩
  case cells => exact (congrArg₂ (· ++ ·) hpch hpcm).trans (highNibble_append_lowNibble nn)
  case frame =>
    intro a ha
    obtain ⟨hnotPcm, hnotPch⟩ := not_or.mp ha
    exact hother a hnotPcm hnotPch
  case outside => simp [State.Outside, hpcm_event, hpch_event]

end Sys2Proof.Machine

/-! ### The relative jump (42_jr.md R140)

The model adds 12-bit words, the statement signed integers: both summands of the target are integers taken modulo 4096, and
so their sum is the integer sum modulo 4096. -/

namespace Sys2Proof.Machine

theorem exec_jr (nn : BitVec 8) (s : State) : exec (.jr nn) s = .next (s.setPc (s.npc + displacement nn)) := rfl

/-- The address of the next word is the integer `pc + 1` modulo 4096 (R8). -/
theorem State.npc_eq_ofInt (s : State) : s.npc = BitVec.ofInt 12 (s.pc.toNat + 1) := by
  simp [State.npc, BitVec.ofInt_add]

/-- Sign extension to 12 bits keeps the signed value of NN (R7). -/
theorem displacement_eq_ofInt (nn : BitVec 8) : displacement nn = BitVec.ofInt 12 nn.toInt := rfl

/-- The target of JR in signed arithmetic, from the next word and modulo 4096 (R140). -/
theorem State.npc_add_displacement (s : State) (nn : BitVec 8) :
    s.npc + displacement nn = BitVec.ofInt 12 (s.pc.toNat + 1 + nn.toInt) := by
  rw [s.npc_eq_ofInt, displacement_eq_ofInt, ← BitVec.ofInt_add]

/-- Settles O25: JR only sets the program counter, and its target is the sum in signed arithmetic. -/
theorem relativeJump : Obligations.RelativeJump := by
  refine ⟨fun _ => rfl, fun nn s => ?_⟩
  rw [exec_jr, s.npc_add_displacement nn, State.setPc]

end Sys2Proof.Machine

/-! ### DEC RY, and the literal OR, AND and XOR of R0 (43_short_00_07.md R153, R155 to R157)

Each writes one register and ends at the next word. What DEC answers at a plain destination is said once, with its flags
still as `zeroFlag` of the result; the literal forms are `State.logicR0` at an operation and a value for C. -/

namespace Sys2Proof.Machine

theorem exec_dec (y : RegNum) (s : State) : exec (.dec y) s = execDec y s := rfl

theorem exec_orR0N (n : Nibble) (s : State) : exec (.orR0N n) s = s.logicR0 (fun a => a ||| n) true := rfl

theorem exec_andR0N (n : Nibble) (s : State) : exec (.andR0N n) s = s.logicR0 (fun a => a &&& n) false := rfl

theorem exec_xorR0N (n : Nibble) (s : State) : exec (.xorR0N n) s = s.logicR0 (fun a => a ^^^ n) (!s.c) := rfl

/-- Modulo 16, a decrement gives 0 from 1 alone (R153). -/
theorem zeroFlag_sub_one_iff (a : Nibble) : zeroFlag (a - 1) = true ↔ a = 1 := by
  rw [zeroFlag_eq_true_iff, sub_eq_zero]

/-- What DEC answers when its destination is plain: neither the read nor the writes move the parameter that
`State.endAt` asks or the address of the next word (R129, R153). -/
theorem execDec_plain {y : RegNum} {s : State} (hplain : s.PlainDest y) :
    ∃ t, execDec y s = .next t ∧
      s.WroteCell (s.readReg y).state (regAddr y) ((s.readReg y).value - 1) s.npc t ∧
      t.z = zeroFlag ((s.readReg y).value - 1) ∧ t.c = zeroFlag ((s.readReg y).value - 1) ∧ t.v = s.v := by
  generalize hr : (s.readReg y).value - 1 = r
  refine ⟨((((s.readReg y).state.writeReg y r).setZ (zeroFlag r)).setC (zeroFlag r)).setPc s.npc, ?_, ?_,
    by simp, by simp, by simp⟩
  · simp only [execDec, hr]
    exact State.endAt_plain _ (by simpa [State.PlainDest] using hplain) (by simp [State.npc])
  · apply State.wroteCell_of <;> simp [State.writeReg]

/-- Settles O30: Z and C are both the zero flag of the result, which is 0 exactly when 1 was read. -/
theorem decrement : Obligations.Decrement := by
  refine ⟨fun _ => rfl, fun y s hplain => ?_⟩
  obtain ⟨t, hnext, hwrote, hz, hc, hv⟩ := execDec_plain hplain
  have hzero := zeroFlag_sub_one_iff (s.readReg y).value
  exact ⟨t, (exec_dec y s).trans hnext, hwrote, hz ▸ hzero, hc ▸ hzero, hv⟩

/-- An instruction whose meaning is `State.logicR0` writes R0 alone, goes on at the next word, sets Z by its result, gives C
the value it names and leaves V (R155 to R157). -/
theorem exec_logicR0 {i : Instr} {s : State} {f : Nibble → Nibble} {c : Bool} (hexec : exec i s = s.logicR0 f c) :
    ∃ t, exec i s = .next t ∧ s.WroteCell s 0x00 (f (s.cell 0x00)) (s.pc + 1) t ∧
      t.c = c ∧ (t.z = true ↔ f (s.cell 0x00) = 0) ∧ t.v = s.v := by
  obtain ⟨t, hnext, hwrote, hc, hz, hv⟩ := s.logicR0_next f c
  exact ⟨t, hexec.trans hnext, hwrote, hc, by rw [hz, zeroFlag_eq_true_iff], hv⟩

/-- Settles O32: one law of `State.logicR0` at the three operations, with C set, reset and toggled. -/
theorem logicLiterals : Obligations.LogicLiterals :=
  ⟨fun _ => ⟨rfl, rfl, rfl⟩, fun n s =>
    ⟨exec_logicR0 (exec_orR0N n s), exec_logicR0 (exec_andR0N n s), exec_logicR0 (exec_xorR0N n s)⟩⟩

end Sys2Proof.Machine

/-! ### RRC RY and SKIP F,M (44_short_08_0F.md R176, R178)

RRC is one register read, one register write and two flags: what it answers at a plain destination is said once, with the
result still as `rotateRight`, whose bits are a lemma of their own. SKIP only sets the program counter: the condition
and the target are each put into the words of the statement. -/

namespace Sys2Proof.Machine

theorem exec_rrc (y : RegNum) (s : State) : exec (.rrc y) s = execRrc y s := rfl

theorem exec_skip (f : Cond) (m : Nat) (s : State) :
    exec (.skip f m) s = .next (s.setPc (if s.holds f then s.npc + BitVec.ofNat 12 m else s.npc)) := rfl

/-- Each bit of a rotated nibble: bits 2 to 0 are the next higher bits of the old value, bit 3 is the carry shifted in
(R176). -/
theorem getLsbD_rotateRight (c : Bool) (old : Nibble) (k : Nat) :
    (rotateRight c old).getLsbD k = if k < 3 then old.getLsbD (1 + k) else decide (k = 3) && c := by
  refine (BitVec.getLsbD_append (m := 3)).trans ?_
  split_ifs with hk
  · simp [hk]
  · simp [BitVec.getLsbD_ofBool, show k - 3 = 0 ↔ k = 3 by omega]

/-- What RRC answers when its destination is plain: neither the read nor the writes move the parameter that
`State.endAt` asks or the address of the next word (R129, R176). -/
theorem execRrc_plain {y : RegNum} {s : State} (hplain : s.PlainDest y) :
    ∃ t, execRrc y s = .next t ∧
      s.WroteCell (s.readReg y).state (regAddr y) (rotateRight s.c (s.readReg y).value) s.npc t ∧
      t.c = (s.readReg y).value.getLsbD 0 ∧ t.z = zeroFlag (rotateRight s.c (s.readReg y).value) ∧ t.v = s.v := by
  generalize hr : rotateRight s.c (s.readReg y).value = r
  refine ⟨((((s.readReg y).state.writeReg y r).setC ((s.readReg y).value.getLsbD 0)).setZ (zeroFlag r)).setPc s.npc,
    ?_, ?_, by simp, by simp, by simp⟩
  · simp only [execRrc, hr]
    exact State.endAt_plain _ (by simpa [State.PlainDest] using hplain) (by simp [State.npc])
  · apply State.wroteCell_of <;> simp [State.writeReg]

/-- Settles O37: the value written is `rotateRight` of the old C and the value read. -/
theorem rotateRightThroughCarry : Obligations.RotateRightThroughCarry := by
  refine ⟨fun _ => rfl, fun y s hplain => ?_⟩
  obtain ⟨t, hnext, hwrote, hc, hz, hv⟩ := execRrc_plain hplain
  have hbit := getLsbD_rotateRight s.c (s.readReg y).value
  exact ⟨t, _, (exec_rrc y s).trans hnext, hwrote, (hbit 3).trans (by simp), hbit 2, hbit 1, hbit 0, hc,
    by rw [hz, zeroFlag_eq_true_iff], hv⟩

/-- The word of SKIP: its two opcodes are the byte 0x0F, and the fields F and M follow (R84, R178). -/
theorem wordOfBits_skip (f m : BitVec 2) : wordOfBits 0xF f m = 0x0F#8 ++ f ++ m := by
  revert f m; decide

/-- The four conditions of SKIP, each by the flag it tests (R178). -/
theorem State.holds_iff (s : State) (f : Cond) :
    s.holds f = true ↔
      (f = .c ∧ s.c = true) ∨ (f = .nc ∧ s.c = false) ∨ (f = .z ∧ s.z = true) ∨ (f = .nz ∧ s.z = false) := by
  cases f <;> simp [State.holds]

/-- The address of the next word, counted as a number modulo 4096 (R8). -/
theorem State.npc_eq_ofNat (s : State) : s.npc = BitVec.ofNat 12 (s.pc.toNat + 1) := by
  simp [State.npc, BitVec.ofNat_add]

/-- The target of SKIP where its condition is true: M words past the next one, modulo 4096 (R178). -/
theorem State.npc_add_ofNat (s : State) (m : Nat) : s.npc + BitVec.ofNat 12 m = BitVec.ofNat 12 (s.pc.toNat + 1 + m) := by
  rw [s.npc_eq_ofNat, ← BitVec.ofNat_add]

/-- Settles O26: SKIP only sets the program counter, to one of two targets by its condition. -/
theorem skipOnCondition : Obligations.SkipOnCondition := by
  refine ⟨fun f m => ?word, fun f m s _ => ⟨fun hholds => ?skips, fun hfails => ?goesOn⟩⟩
  case word => cases f <;> exact wordOfBits_skip _ _
  case skips => rw [exec_skip, if_pos ((s.holds_iff f).mpr hholds), s.npc_add_ofNat m, State.setPc]
  case goesOn => rw [exec_skip, if_neg (mt (s.holds_iff f).mp hfails), s.npc_eq_ofNat, State.setPc]

end Sys2Proof.Machine

/-! ### The word of an instruction and the instruction of a word (30_encoding.md R80 to R91)

A word is put together from fields, and every field is one run of its bits. So the round trip from an instruction takes each
field back out of the word, and the round trip from a word puts its own fields together again. -/

namespace Sys2Proof

section Fields

/-- The high part of two joined bit strings. -/
theorem extractLsb'_append_high {v w : Nat} (a : BitVec v) (b : BitVec w) : (a ++ b).extractLsb' w v = a := by
  rw [BitVec.extractLsb'_append_eq_of_le (Nat.le_refl w), Nat.sub_self, BitVec.extractLsb'_eq_self]

/-- The low part of two joined bit strings. -/
theorem extractLsb'_append_low {v w : Nat} (a : BitVec v) (b : BitVec w) : (a ++ b).extractLsb' 0 w = b := by
  rw [BitVec.extractLsb'_append_eq_of_add_le (by omega), BitVec.extractLsb'_eq_self]

variable (op x y op2 : Nibble) (nn : BitVec 8) (g m : BitVec 2)

@[simp] theorem op_wordOf : (wordOf op x y).op = op :=
  (BitVec.extractLsb'_append_eq_of_le (xhi := op ++ x) (by decide)).trans (extractLsb'_append_high op x)

@[simp] theorem fieldX_wordOf : (wordOf op x y).fieldX = x :=
  (BitVec.extractLsb'_append_eq_of_le (xhi := op ++ x) (by decide)).trans (extractLsb'_append_low op x)

@[simp] theorem fieldY_wordOf : (wordOf op x y).fieldY = y := extractLsb'_append_low (op ++ x) y

@[simp] theorem op_wordOfNn : (wordOfNn op nn).op = op := extractLsb'_append_high op nn

@[simp] theorem fieldNn_wordOfNn : (wordOfNn op nn).fieldNn = nn := extractLsb'_append_low op nn

@[simp] theorem op_wordOfBits : (wordOfBits op2 g m).op = 0 := op_wordOf 0 op2 (g ++ m)

@[simp] theorem fieldX_wordOfBits : (wordOfBits op2 g m).fieldX = op2 := fieldX_wordOf 0 op2 (g ++ m)

@[simp] theorem fieldG_wordOfBits : (wordOfBits op2 g m).fieldG = g :=
  (BitVec.extractLsb'_append_eq_of_add_le (xhi := 0#4 ++ op2) (xlo := g ++ m) (by decide)).trans
    (extractLsb'_append_high g m)

@[simp] theorem fieldM_wordOfBits : (wordOfBits op2 g m).fieldM = m :=
  (BitVec.extractLsb'_append_eq_of_add_le (xhi := 0#4 ++ op2) (xlo := g ++ m) (by decide)).trans
    (extractLsb'_append_low g m)

/-! #### A word put together from its own fields -/

variable (w : Word)

theorem wordOf_fields : wordOf w.op w.fieldX w.fieldY = w := by
  have hhigh : w.op ++ w.fieldX = w.extractLsb' 4 8 := BitVec.extractLsb'_append_extractLsb'_eq_extractLsb' rfl
  rw [wordOf, hhigh]
  exact (BitVec.extractLsb'_append_extractLsb'_eq_extractLsb' rfl).trans BitVec.extractLsb'_eq_self

theorem wordOfNn_fields : wordOfNn w.op w.fieldNn = w :=
  (BitVec.extractLsb'_append_extractLsb'_eq_extractLsb' rfl).trans BitVec.extractLsb'_eq_self

theorem fieldG_append_fieldM : w.fieldG ++ w.fieldM = w.fieldY :=
  BitVec.extractLsb'_append_extractLsb'_eq_extractLsb' rfl

theorem wordOfBits_fields (h : w.op = 0#4) : wordOfBits w.fieldX w.fieldG w.fieldM = w := by
  have hword : wordOf 0#4 w.fieldX w.fieldY = w := h ▸ wordOf_fields w
  exact (congrArg _ (fieldG_append_fieldM w)).trans hword

end Fields

/-! #### The coded operands -/

@[simp] theorem Rg.ofField_field (g : Rg) : Rg.ofField g.field = g := by cases g <;> rfl

@[simp] theorem Cond.ofField_field (f : Cond) : Cond.ofField f.field = f := by cases f <;> rfl

@[simp] theorem Rg.field_ofField (g : BitVec 2) : (Rg.ofField g).field = g := by revert g; decide

@[simp] theorem Cond.field_ofField (f : BitVec 2) : (Cond.ofField f).field = f := by revert f; decide

/-- The count of EXR is the literal, but that 0000 means 16 (R91). -/
theorem exrCount_ofNat {n : Nat} (h₁ : 1 ≤ n) (h₂ : n ≤ 16) : exrCount (BitVec.ofNat 4 n) = n := by
  interval_cases n <;> rfl

/-- The count of SKIP is the field M, but that 00 means 4 (R91). -/
theorem skipCount_ofNat {m : Nat} (h₁ : 1 ≤ m) (h₂ : m ≤ 4) : skipCount (BitVec.ofNat 2 m) = m := by
  interval_cases m <;> rfl

@[simp] theorem exrCount_range (n : Nibble) : 1 ≤ exrCount n ∧ exrCount n ≤ 16 := by
  revert n; decide

@[simp] theorem ofNat_exrCount (n : Nibble) : BitVec.ofNat 4 (exrCount n) = n := by
  revert n; decide

@[simp] theorem skipCount_range (m : BitVec 2) : 1 ≤ skipCount m ∧ skipCount m ≤ 4 := by
  revert m; decide

@[simp] theorem ofNat_skipCount (m : BitVec 2) : BitVec.ofNat 2 (skipCount m) = m := by
  revert m; decide

theorem wellFormed_exr {n : Nat} : (Instr.exr n).wellFormed = true ↔ 1 ≤ n ∧ n ≤ 16 := by
  simp [Instr.wellFormed]

theorem wellFormed_skip {f : Cond} {m : Nat} : (Instr.skip f m).wellFormed = true ↔ 1 ≤ m ∧ m ≤ 4 := by
  simp [Instr.wellFormed]

/-- Settles O1: the opcodes of the word select the row, and each field comes back out of it; the two counts come back because
they are well formed. -/
theorem decodeOfEncode : Obligations.DecodeOfEncode := by
  intro i hwf
  cases i
  case exr n =>
    obtain ⟨hlo, hhi⟩ := wellFormed_exr.mp hwf
    simp [encode, decode, decodeSecondary, exrCount_ofNat hlo hhi]
  case skip f m =>
    obtain ⟨hlo, hhi⟩ := wellFormed_skip.mp hwf
    simp [encode, decode, decodeSecondary, skipCount_ofNat hlo hhi]
  all_goals simp [encode, decode, decodeSecondary]

/-! #### Every word, by its opcodes -/

section Opcodes
variable (op x y : Nibble)

@[simp] theorem wordOfNn_fieldNn : wordOfNn op (wordOf op x y).fieldNn = wordOf op x y := by
  simpa using wordOfNn_fields (wordOf op x y)

@[simp] theorem wordOfBits_fieldG_fieldM :
    wordOfBits x (wordOf 0#4 x y).fieldG (wordOf 0#4 x y).fieldM = wordOf 0#4 x y := by
  simpa using wordOfBits_fields (wordOf 0#4 x y)

/-- A nibble is one of its sixteen values. -/
theorem nibble_cases {p : Nibble → Prop} (h : ∀ k < 16, p (BitVec.ofNat 4 k)) (a : Nibble) : p a := by
  simpa using h a.toNat a.isLt

/-- A word whose primary opcode is 0000: the row of R84 that its secondary opcode selects. -/
theorem encode_decodeSecondary : (decodeSecondary (wordOf 0#4 x y)).wellFormed = true ∧
    encode (decodeSecondary (wordOf 0#4 x y)) = wordOf 0#4 x y := by
  induction x using nibble_cases with
  | h k hk => interval_cases k <;> simp [decodeSecondary, encode, Instr.wellFormed]

/-! #### The opcode map -/

/-- A word and a mask, field by field. -/
theorem wordOf_and (op' x' y' : Nibble) :
    wordOf op x y &&& wordOf op' x' y' = wordOf (op &&& op') (x &&& x') (y &&& y') :=
  BitVec.and_append.trans (congrArg (· ++ (y &&& y')) BitVec.and_append)

/-- The masks of the opcode map leave out the lowest nibble (R83, R84). -/
theorem opcodeRows_mask : ∀ r ∈ opcodeRows, r.mask &&& wordOf 15 15 0 = r.mask := by decide

/-- Whether a row covers a word is a matter of the two opcodes. -/
theorem covers_wordOf {r : OpcodeRow} (hr : r ∈ opcodeRows) : r.covers (wordOf op x y) = r.covers (wordOf op x 0) := by
  have hlow : wordOf op x y &&& wordOf 15 15 0 = wordOf op x 0 &&& wordOf 15 15 0 := by simp [wordOf_and]
  rw [OpcodeRow.covers, OpcodeRow.covers, ← opcodeRows_mask r hr, BitVec.and_comm r.mask, ← BitVec.and_assoc,
    ← BitVec.and_assoc, hlow]

/-- The mnemonic of a row of R84 is a matter of the secondary opcode. -/
theorem mnemonic_decodeSecondary :
    (decodeSecondary (wordOf 0#4 x y)).mnemonic = (decodeSecondary (wordOf 0#4 x 0)).mnemonic := by
  induction x using nibble_cases with
  | h k hk => interval_cases k <;> simp [decodeSecondary, Instr.mnemonic]

/-- The mnemonic of a word's instruction is a matter of the two opcodes. -/
theorem mnemonic_decode_wordOf : (decode (wordOf op x y)).mnemonic = (decode (wordOf op x 0)).mnemonic := by
  induction op using nibble_cases with
  | h k hk =>
    interval_cases k
    · simpa [decode] using mnemonic_decodeSecondary x y
    all_goals simp [decode, Instr.mnemonic]

/-- One word for each pair of opcodes: the rows that cover it. -/
theorem opcodeRows_covers : ∀ op x : Nibble,
    (opcodeRows.filter fun r => r.covers (wordOf op x 0)).map (fun r => r.mnemonic) =
      [(decode (wordOf op x 0)).mnemonic] := by
  decide

end Opcodes

/-- Settles O2: the primary opcode selects the row of R83, or leads to those of R84. -/
theorem everyWordIsAnInstruction : Obligations.EveryWordIsAnInstruction := by
  intro w
  rw [← wordOf_fields w]
  generalize w.op = op, w.fieldX = x, w.fieldY = y
  induction op using nibble_cases with
  | h k hk =>
    interval_cases k
    · simpa [decode] using encode_decodeSecondary x y
    all_goals simp [decode, encode, Instr.wellFormed]

/-- Settles O3: neither side depends on the lowest nibble, and without it there are 256 words. -/
theorem decodeFollowsOpcodeMap : Obligations.DecodeFollowsOpcodeMap := by
  intro w
  rw [← wordOf_fields w, mnemonic_decode_wordOf, ← opcodeRows_covers]
  exact congrArg _ (List.filter_congr fun r hr => covers_wordOf _ _ _ hr)

/-- Settles O4: eight words, evaluated. -/
theorem sourceExamplesDecode : Obligations.SourceExamplesDecode := by
  unfold Obligations.SourceExamplesDecode
  decide

end Sys2Proof

/-! ### The step (10_state.md R20) -/

namespace Sys2Proof.Machine

theorem step_of_fetch {s : State} {w : Word} (h : s.fetch = some w) : step s = exec (decode w) s := by
  rw [step, h]

/-- Settles O6. -/
theorem unloadedWordFaults : Obligations.UnloadedWordFaults := fun s h => by rw [step, h]

/-- Settles O5: the fetched word decodes to the instruction it encodes (O1). -/
theorem stepRunsDecodedInstruction : Obligations.StepRunsDecodedInstruction := fun s i hwf hfetch => by
  rw [step_of_fetch hfetch, decodeOfEncode i hwf]

end Sys2Proof.Machine

/-! ### What any instruction can do (10_state.md R25 to R31, 60_exceptions.md R204)

An instruction does its work in a state `u`, which keeps the program counter, SP, program memory, the parameters, the
canonical form and every flag that R28 does not list; then it ends in one of seven ways. This is said once for the 31
instructions (`exec_ends`), and the statements about all instructions are read off the ends. -/

namespace Sys2Proof.Machine

/-! #### The meaning of each instruction, as the shared operation it is -/

section Arms
variable (x y : RegNum) (n : Nibble) (g : Rg) (m : BitVec 2) (s : State)

theorem exec_addRxRy : exec (.addRxRy x y) s = s.arith x y fun a b => addFlags a b false := rfl

theorem exec_adcRxRy : exec (.adcRxRy x y) s = s.arith x y fun a b => addFlags a b s.c := rfl

theorem exec_subRxRy : exec (.subRxRy x y) s = s.arith x y fun a b => subFlags a b true := rfl

theorem exec_sbbRxRy : exec (.sbbRxRy x y) s = s.arith x y fun a b => subFlags a b s.c := rfl

theorem exec_movRxRy : exec (.movRxRy x y) s =
    ((s.readReg y).state.writeReg x (s.readReg y).value).endMov x (s.readReg y).value := rfl

theorem exec_movRxN : exec (.movRxN x n) s = (s.writeReg x n).endMov x n := rfl

theorem exec_cp : exec (.cp n) s = execCp n s := rfl

theorem exec_addR0N : exec (.addR0N n) s = execAddR0N n s := rfl

theorem exec_inc : exec (.inc y) s = execInc y s := rfl

theorem exec_dsz : exec (.dsz y) s = execDsz y s := rfl

theorem exec_exr (k : Nat) : exec (.exr k) s =
    if s.cfg.pcwriteScope = .movOnlyElseRefuse ∧ 13 ≤ k then .refused .pcwriteUnspecified
    else .next (s.exchange k).advance := rfl

theorem exec_bit : exec (.bit g m) s = execBit g m s := rfl

theorem exec_bset : exec (.bset g m) s = .next (s.changeRg g fun v => v ||| bitMask m) := rfl

theorem exec_bclr : exec (.bclr g m) s = .next (s.changeRg g fun v => v &&& ~~~bitMask m) := rfl

theorem exec_btg : exec (.btg g m) s = .next (s.changeRg g fun v => v ^^^ bitMask m) := rfl

theorem exec_ret : exec (.ret n) s = execRet n s := rfl

end Arms

/-! #### What a read does not see -/

/-- A change of the state that reads of data memory neither see nor undo. -/
structure Unread (g : State → State) : Prop where
  dm (s : State) : (g s).dm = s.dm
  wrflagsAddr (s : State) : (g s).cfg.wrflagsAddr = s.cfg.wrflagsAddr
  inputs (s : State) : (g s).inputs = s.inputs
  draws (s : State) : (g s).draws = s.draws
  setInputs (s : State) (l : List Nibble) : (g s).setInputs l = g (s.setInputs l)
  setDraws (s : State) (k : Nat) : (g s).setDraws k = g (s.setDraws k)

section Unread
variable {g : State → State} (hg : Unread g) (s : State)
include hg

theorem Unread.cell (a : DataAddr) : (g s).cell a = s.cell a := State.cell_congr (hg.dm s) a

theorem Unread.wrFlags1 : (g s).wrFlags1 = s.wrFlags1 := by
  rw [State.wrFlags1, State.wrFlags1, hg.cell, hg.wrflagsAddr]

theorem Unread.inAddr : (g s).inAddr = s.inAddr := by rw [State.inAddr, State.inAddr, hg.wrFlags1]

theorem Unread.outAddr : (g s).outAddr = s.outAddr := by rw [State.outAddr, State.outAddr, hg.wrFlags1]

theorem Unread.drawsAt (a : DataAddr) : (g s).drawsAt a = s.drawsAt a := by
  rw [State.drawsAt, State.drawsAt, hg.wrflagsAddr, hg.outAddr]

theorem Unread.drawNibble : (g s).drawNibble = ⟨s.drawNibble.value, g s.drawNibble.state⟩ := by
  simp only [State.drawNibble, hg.draws, hg.setDraws]

theorem Unread.readInput : (g s).readInput = ⟨s.readInput.value, g s.readInput.state⟩ := by
  cases hl : s.inputs with
  | nil => simp only [State.readInput, hg.inputs, hl, hg.drawNibble]
  | cons x rest => simp only [State.readInput, hg.inputs, hl, hg.setInputs]

/-- A read gives what it gave without the change, and the change stands. -/
theorem Unread.memRead (a : DataAddr) : (g s).memRead a = ⟨(s.memRead a).value, g (s.memRead a).state⟩ := by
  simp only [State.memRead, hg.inAddr, hg.drawsAt, hg.readInput, hg.drawNibble, hg.cell]
  split_ifs <;> rfl

theorem Unread.readReg (i : RegNum) : (g s).readReg i = ⟨(s.readReg i).value, g (s.readReg i).state⟩ := hg.memRead s _

theorem Unread.readPair (x y : RegNum) :
    (g s).readPair x y = ⟨(s.readPair x y).x, (s.readPair x y).y, g (s.readPair x y).state⟩ := by
  simp only [State.readPair, hg.readReg]
  split_ifs <;> rfl

theorem Unread.readReturn (k : Nat) : (g s).readReturn k = ((s.readReturn k).1, g (s.readReturn k).2) := by
  simp only [State.readReturn, hg.memRead]

end Unread

theorem unread_setSp (k : Nat) : Unread fun s => s.setSp k :=
  ⟨fun _ => rfl, fun _ => rfl, fun _ => rfl, fun _ => rfl, fun _ _ => rfl, fun _ _ => rfl⟩

/-! #### RET -/

/-- RET at level 0 (R204). -/
theorem execRet_level0 (n : Nibble) {s : State} (h : s.sp = 0) : execRet n s = .fault .stackUnderflow := if_pos h

/-- RET above level 0: R0 is written, the entry below SP is read, and SP and the program counter are set (R177). -/
theorem execRet_above (n : Nibble) {s : State} (h : s.sp ≠ 0) :
    execRet n s = .next ((((s.writeReg 0 n).readReturn (s.sp - 1)).2.setSp (s.sp - 1)).setPc
      ((s.writeReg 0 n).readReturn (s.sp - 1)).1) := by
  have hpop := (unread_setSp (s.sp - 1)).readReturn (s.writeReg 0 n) (s.sp - 1)
  refine (if_neg h).trans ?_
  simp only [State.writeReg_sp, hpop]

/-! #### Work and ends -/

/-- What the work of the instruction `i` from `s` to `u`, its reads and writes before it ends, has kept. -/
structure Keeps (i : Instr) (s u : State) : Prop where
  pc : u.pc = s.pc
  sp : u.sp = s.sp
  pm : u.pm = s.pm
  cfg : u.cfg = s.cfg
  wf : Memory.wf s.dm = true → Memory.wf u.dm = true
  c : i.writesC s.cfg = false → u.c = s.c
  z : i.writesZ = false → u.z = s.z
  v : i.writesV s.cfg = false → u.v = s.v

/-- The ways in which the instruction `i`, started in `s` and worked to `u`, ends. -/
inductive Ends (i : Instr) (s u : State) : Result → Prop where
  | advances : Ends i s u (.next u.advance)
  | branches (pc : ProgAddr) (h : (∃ nn, i = .jr nn) ∨ (∃ y, i = .dsz y) ∨ ∃ f m, i = .skip f m) :
      Ends i s u (.next (u.setPc pc))
  | jumps (x : Nibble) (h : i.transfersVia s.cfg RegNum.pcl) : Ends i s u (.next (u.programJump x))
  | calls (x : Nibble) {r : Result} (h : i.transfersVia s.cfg RegNum.jsr) (hr : u.subroutineCall x = r) : Ends i s u r
  | returns (n : Nibble) (pc : ProgAddr) (h : i = .ret n) (hsp : s.sp ≠ 0) :
      Ends i s u (.next ((u.setSp (s.sp - 1)).setPc pc))
  | underflows (n : Nibble) (h : i = .ret n) (hsp : s.sp = 0) : Ends i s u (.fault .stackUnderflow)
  | refuses (f : Refusal) (h : s.cfg.pcwriteScope = .movOnlyElseRefuse ∨ s.cfg.sfrModel = .strict) :
      Ends i s u (.refused f)

section Work
variable {i : Instr} {s u : State}

theorem Keeps.refl : Keeps i s s := ⟨rfl, rfl, rfl, rfl, id, fun _ => rfl, fun _ => rfl, fun _ => rfl⟩

theorem Keeps.npc (h : Keeps i s u) : u.npc = s.npc := congrArg (· + 1) h.pc

/-- Work that moves data memory, inputs, draws or outputs alone. -/
theorem Keeps.of_data {u' : State} (h : Keeps i s u) (hpc : u'.pc = u.pc) (hsp : u'.sp = u.sp) (hpm : u'.pm = u.pm)
    (hcfg : u'.cfg = u.cfg) (hc : u'.c = u.c) (hz : u'.z = u.z) (hv : u'.v = u.v)
    (hwf : Memory.wf u.dm = true → Memory.wf u'.dm = true) : Keeps i s u' :=
  ⟨hpc.trans h.pc, hsp.trans h.sp, hpm.trans h.pm, hcfg.trans h.cfg, hwf ∘ h.wf, fun hw => hc.trans (h.c hw),
    fun hw => hz.trans (h.z hw), fun hw => hv.trans (h.v hw)⟩

theorem Keeps.memRead (h : Keeps i s u) (a : DataAddr) : Keeps i s (u.memRead a).state := by
  apply h.of_data <;> simp

theorem Keeps.readReg (h : Keeps i s u) (x : RegNum) : Keeps i s (u.readReg x).state := h.memRead _

theorem Keeps.readPair (h : Keeps i s u) (x y : RegNum) : Keeps i s (u.readPair x y).state := by
  apply h.of_data <;> simp

theorem Keeps.memWrite (h : Keeps i s u) (a : DataAddr) (x : Nibble) : Keeps i s (u.memWrite a x) :=
  h.of_data rfl rfl rfl rfl rfl rfl rfl (u.wf_memWrite a x)

theorem Keeps.writeReg (h : Keeps i s u) (d : RegNum) (x : Nibble) : Keeps i s (u.writeReg d x) := h.memWrite _ x

theorem Keeps.exchange (h : Keeps i s u) (n : Nat) : Keeps i s (u.exchange n) := by
  apply h.of_data (hwf := u.wf_exchange n) <;> simp

theorem Keeps.readReturn (h : Keeps i s u) (k : Nat) : Keeps i s (u.readReturn k).2 :=
  ((h.memRead _).memRead _).memRead _

theorem Keeps.setC (h : Keeps i s u) (hw : i.writesC s.cfg = true) (x : Bool) : Keeps i s (u.setC x) :=
  { h with c := by simp [hw] }

theorem Keeps.setZ (h : Keeps i s u) (hw : i.writesZ = true) (x : Bool) : Keeps i s (u.setZ x) :=
  { h with z := by simp [hw] }

theorem Keeps.setV (h : Keeps i s u) (hw : i.writesV s.cfg = true) (x : Bool) : Keeps i s (u.setV x) :=
  { h with v := by simp [hw] }

theorem Keeps.setFlags (h : Keeps i s u) (hc : i.writesC s.cfg = true) (hz : i.writesZ = true)
    (hv : i.writesV s.cfg = true) (c z v : Bool) : Keeps i s (u.setFlags c z v) :=
  ((h.setC hc c).setZ hz z).setV hv v

theorem Keeps.drawC (h : Keeps i s u) (hw : i.writesC s.cfg = true) : Keeps i s u.drawC :=
  { h.setC hw _ with }

/-- V written where a parameter says so. -/
theorem Keeps.setV_if {p : Bool} (h : Keeps i s u) (hp : p = true → i.writesV s.cfg = true) (x : Bool) :
    Keeps i s (if p then u.setV x else u) := by
  split_ifs with hw
  exacts [h.setV (hp hw) x, h]

/-- C drawn where a parameter says so. -/
theorem Keeps.drawC_if {p : Bool} (h : Keeps i s u) (hp : p = true → i.writesC s.cfg = true) :
    Keeps i s (if p then u.drawC else u) := by
  split_ifs with hw
  exacts [h.drawC (hp hw), h]

end Work

section Endings
variable {i : Instr} {s u : State} {d : RegNum}

theorem eq_jsr_of_isPcReg (h : isPcReg d = true) (hd : d ≠ RegNum.pcl) : d = RegNum.jsr := by
  simpa [isPcReg, hd] using h

/-- The call or jump through a register that starts one. -/
theorem Ends.transfer (x : Nibble) (hpc : isPcReg d = true) (h : i.transfersVia s.cfg d) :
    Ends i s u (u.transfer d x) := by
  unfold State.transfer
  split_ifs with hd
  · exact .jumps x (hd ▸ h)
  · exact .calls x (eq_jsr_of_isPcReg hpc hd ▸ h) rfl

/-- The end at the next word. -/
theorem Keeps.advance (h : Keeps i s u) : ∃ u', Keeps i s u' ∧ Ends i s u' (.next u.advance) := ⟨u, h, .advances⟩

/-- The end of the two MOVs (R120, R121). -/
theorem Keeps.endMov (h : Keeps i s u) (hd : i.movDest = some d) (x : Nibble) :
    ∃ u', Keeps i s u' ∧ Ends i s u' (u.endMov d x) := by
  refine ⟨u, h, ?_⟩
  unfold State.endMov
  split_ifs with hpc
  · exact .transfer x hpc (.inl hd)
  · exact .advances

/-- The end of any other register form (R129), at the next word unless it is DSZ. -/
theorem Keeps.endAt (h : Keeps i s u) (hd : i.openDest = some d) (x : Nibble) {pc : ProgAddr}
    (hpc : pc = s.npc ∨ ∃ y, i = .dsz y) : ∃ u', Keeps i s u' ∧ Ends i s u' (u.endAt d x pc) := by
  refine ⟨u, h, ?_⟩
  unfold State.endAt
  rw [h.cfg]
  split_ifs with hreg
  · cases hscope : s.cfg.pcwriteScope
    case movOnlyElseRefuse => exact .refuses _ (.inl hscope)
    case movOnlyElsePlain => exact .advances
    case allRegisterWrites => exact .transfer x hreg (.inr ⟨hscope, hd⟩)
  · rcases hpc with rfl | hdsz
    · rw [← h.npc]; exact .advances
    · exact .branches pc (.inr (.inl hdsz))

/-- The memory-form stores (R122, R124). -/
theorem Keeps.storeR0 (h : Keeps i s u) (a : DataAddr) : ∃ u', Keeps i s u' ∧ Ends i s u' (u.storeR0 a) := by
  refine ⟨_, (h.readReg 0).memWrite a (u.readReg 0).value, ?_⟩
  unfold State.storeR0
  split_ifs with hpcw hsfr
  · exact .refuses _ (.inl (by simp [State.pcwriteRefuses, h.cfg] at hpcw; exact hpcw.1))
  · exact .refuses _ (.inr (by simp [State.sfrRefuses, h.cfg] at hsfr; tauto))
  · exact .advances

/-- The memory-form loads (R123, R125). -/
theorem Keeps.loadR0 (h : Keeps i s u) (a : DataAddr) : ∃ u', Keeps i s u' ∧ Ends i s u' (u.loadR0 a) := by
  refine ⟨_, (h.memRead a).writeReg 0 (u.memRead a).value, ?_⟩
  unfold State.loadR0
  split_ifs with hsfr
  · exact .refuses _ (.inr (by simp [State.sfrRefuses, h.cfg] at hsfr; tauto))
  · exact .advances

end Endings

/-- ADD, ADC, SUB and SBB (R100). -/
theorem arith_ends {i : Instr} {s : State} {x y : RegNum} {f : Nibble → Nibble → AluResult} (hd : i.openDest = some x)
    (hc : i.writesC s.cfg = true) (hz : i.writesZ = true) (hv : i.writesV s.cfg = true) :
    ∃ u, Keeps i s u ∧ Ends i s u (s.arith x y f) :=
  (((Keeps.refl.readPair x y).writeReg x _).setFlags hc hz hv _ _ _).endAt hd _ (.inl rfl)

/-- OR, AND and XOR of two registers (R105). -/
theorem logic_ends {i : Instr} {s : State} {x y : RegNum} {f : Nibble → Nibble → Nibble} (hd : i.openDest = some x)
    (hz : i.writesZ = true) : ∃ u, Keeps i s u ∧ Ends i s u (s.logic x y f) :=
  (((Keeps.refl.readPair x y).writeReg x _).setZ hz _).endAt hd _ (.inl rfl)

/-- OR, AND and XOR of R0 with a literal (R155). -/
theorem logicR0_ends {i : Instr} {s : State} {f : Nibble → Nibble} {c : Bool} (hc : i.writesC s.cfg = true)
    (hz : i.writesZ = true) : ∃ u, Keeps i s u ∧ Ends i s u (s.logicR0 f c) :=
  ((((Keeps.refl.readReg 0).writeReg 0 _).setC hc _).setZ hz _).advance

/-- BSET, BCLR and BTG (R171). -/
theorem changeRg_ends {i : Instr} {s : State} {g : Rg} {f : Nibble → Nibble} :
    ∃ u, Keeps i s u ∧ Ends i s u (.next (s.changeRg g f)) :=
  ((Keeps.refl.memRead _).memWrite _ _).advance

/-- EXR (R170). -/
theorem exec_exr_ends (n : Nat) (s : State) : ∃ u, Keeps (.exr n) s u ∧ Ends (.exr n) s u (exec (.exr n) s) := by
  rw [exec_exr]
  split_ifs with hrefuses
  · exact ⟨s, .refl, .refuses _ (.inl hrefuses.1)⟩
  · exact (Keeps.refl.exchange n).advance

/-- RET: the pop at level 0, and above it (R177, R204). -/
theorem exec_ret_ends (n : Nibble) (s : State) : ∃ u, Keeps (.ret n) s u ∧ Ends (.ret n) s u (exec (.ret n) s) := by
  rw [exec_ret]
  by_cases hsp : s.sp = 0
  · rw [execRet_level0 n hsp]
    exact ⟨s, .refl, .underflows n rfl hsp⟩
  · rw [execRet_above n hsp]
    exact ⟨_, (Keeps.refl.writeReg 0 n).readReturn (s.sp - 1), .returns n _ rfl hsp⟩

/-- Every instruction: its work, and one of the seven ends. -/
theorem exec_ends (i : Instr) (s : State) : ∃ u, Keeps i s u ∧ Ends i s u (exec i s) := by
  cases i with
  | addRxRy x y => exact exec_addRxRy x y s ▸ arith_ends rfl rfl rfl rfl
  | adcRxRy x y => exact exec_adcRxRy x y s ▸ arith_ends rfl rfl rfl rfl
  | subRxRy x y => exact exec_subRxRy x y s ▸ arith_ends rfl rfl rfl rfl
  | sbbRxRy x y => exact exec_sbbRxRy x y s ▸ arith_ends rfl rfl rfl rfl
  | orRxRy x y => exact exec_orRxRy x y s ▸ logic_ends rfl rfl
  | andRxRy x y => exact exec_andRxRy x y s ▸ logic_ends rfl rfl
  | xorRxRy x y => exact exec_xorRxRy x y s ▸ logic_ends rfl rfl
  | movRxRy x y => exact ((Keeps.refl.readReg y).writeReg x _).endMov rfl _
  | movRxN x n => exact (Keeps.refl.writeReg x n).endMov rfl n
  | movXyR0 x y => exact (Keeps.refl.readPair x y).storeR0 _
  | movR0Xy x y => exact (Keeps.refl.readPair x y).loadR0 _
  | movNnR0 nn => exact Keeps.refl.storeR0 nn
  | movR0Nn nn => exact Keeps.refl.loadR0 nn
  | movPcNn nn => exact ((Keeps.refl.writeReg _ _).writeReg _ _).advance
  | jr nn => exact ⟨s, .refl, .branches _ (.inl ⟨nn, rfl⟩)⟩
  | cp n => exact ((((Keeps.refl.readReg 0).setC rfl _).setZ rfl _).setV_if id _).advance
  | addR0N n => exact (((((Keeps.refl.readReg 0).writeReg 0 _).setC rfl _).setZ rfl _).setV_if id _).advance
  | inc y => exact ((((Keeps.refl.readReg y).writeReg y _).setZ rfl _).drawC_if id).endAt rfl _ (.inl rfl)
  | dec y => exact ((((Keeps.refl.readReg y).writeReg y _).setZ rfl _).setC rfl _).endAt rfl _ (.inl rfl)
  | dsz y => exact ((Keeps.refl.readReg y).writeReg y _).endAt rfl _ (.inr ⟨y, rfl⟩)
  | orR0N n => exact exec_orR0N n s ▸ logicR0_ends rfl rfl
  | andR0N n => exact exec_andR0N n s ▸ logicR0_ends rfl rfl
  | xorR0N n => exact exec_xorR0N n s ▸ logicR0_ends rfl rfl
  | exr n => exact exec_exr_ends n s
  | bit g m => exact (((Keeps.refl.memRead _).setZ rfl _).drawC_if id).advance
  | bset g m => exact exec_bset g m s ▸ changeRg_ends
  | bclr g m => exact exec_bclr g m s ▸ changeRg_ends
  | btg g m => exact exec_btg g m s ▸ changeRg_ends
  | rrc y => exact ((((Keeps.refl.readReg y).writeReg y _).setC rfl _).setZ rfl _).endAt rfl _ (.inl rfl)
  | ret n => exact exec_ret_ends n s
  | skip f m => exact ⟨s, .refl, .branches _ (.inr (.inr ⟨f, m, rfl⟩))⟩

/-! #### What the ends say of the next state -/

section Next
variable {i : Instr} {s u t : State}

/-- The end of an instruction keeps program memory, the parameters and the flags as its work left them. -/
theorem Ends.fixed (h : Ends i s u (.next t)) : t.pm = u.pm ∧ t.cfg = u.cfg ∧ t.c = u.c ∧ t.z = u.z ∧ t.v = u.v := by
  cases h with
  | calls x _ hr =>
    obtain ⟨-, rfl⟩ := u.subroutineCall_next hr
    simp
  | advances | branches | jumps | returns => simp

/-- The end of an instruction leaves SP, but for a call, which adds 1 below `STACK_DEPTH`, and RET, which takes 1 above 0
(R30). -/
theorem Ends.sp (hk : Keeps i s u) (h : Ends i s u (.next t)) :
    t.sp = s.sp ∨ (t.sp = s.sp + 1 ∧ s.sp < s.cfg.stackDepth ∧ i.transfersVia s.cfg RegNum.jsr) ∨
      (t.sp + 1 = s.sp ∧ ∃ n, i = .ret n) := by
  cases h with
  | calls x hjsr hr =>
    obtain ⟨hroom, rfl⟩ := u.subroutineCall_next hr
    rw [hk.sp, hk.cfg] at hroom
    exact .inr (.inl ⟨by simp [hk.sp], hroom, hjsr⟩)
  | returns n pc hret hsp => exact .inr (.inr ⟨by simp; omega, n, hret⟩)
  | advances | branches | jumps => exact .inl (by simp [hk.sp])

/-- The end of an instruction keeps the canonical form of data memory: only the call writes, and only stack cells. -/
theorem Ends.wf (h : Ends i s u (.next t)) (hu : Memory.wf u.dm = true) : Memory.wf t.dm = true := by
  cases h with
  | calls x _ hr =>
    obtain ⟨-, rfl⟩ := u.subroutineCall_next hr
    exact u.wf_pushReturn u.npc hu
  | advances | branches | jumps | returns => exact hu

/-- An instruction outside the list of R26 ends at the next word. -/
theorem Ends.pc (hk : Keeps i s u) (h : Ends i s u (.next t)) (hb : ¬i.mayBranch s.cfg) : t.pc = s.npc := by
  cases h with
  | advances => exact hk.npc
  | branches pc hi => exact absurd (hi.imp_right (.imp_right .inl)) hb
  | returns n pc hi => exact absurd (.inr (.inr (.inr (.inl ⟨n, hi⟩)))) hb
  | jumps x hi => exact absurd (.inr (.inr (.inr (.inr (.inl hi))))) hb
  | calls x hi => exact absurd (.inr (.inr (.inr (.inr (.inr hi))))) hb

/-- The work and the end of an instruction that answered a next state. -/
theorem exec_next (h : exec i s = .next t) : ∃ u, Keeps i s u ∧ Ends i s u (.next t) := h ▸ exec_ends i s

/-- No instruction changes program memory or the parameters (R31, R5). -/
theorem exec_keeps_program (h : exec i s = .next t) : t.pm = s.pm ∧ t.cfg = s.cfg := by
  obtain ⟨u, hk, he⟩ := exec_next h
  obtain ⟨hpm, hcfg, -⟩ := he.fixed
  exact ⟨hpm.trans hk.pm, hcfg.trans hk.cfg⟩

/-- Every instruction keeps the invariant (R30, R204). -/
theorem exec_keeps_inv (h : exec i s = .next t) (hs : s.Inv) : t.Inv := by
  obtain ⟨u, hk, he⟩ := exec_next h
  obtain ⟨hwf, hpmwf, hsp⟩ := hs
  obtain ⟨hpm, hcfg⟩ := exec_keeps_program h
  refine ⟨he.wf (hk.wf hwf), by rwa [hpm], ?_⟩
  rw [hcfg]
  rcases he.sp hk with hkept | ⟨hup, hroom, -⟩ | ⟨hdown, -⟩ <;> omega

/-- A step that answers a next state ran an instruction that did. -/
theorem exists_exec_of_step (h : step s = .next t) : ∃ i, exec i s = .next t := by
  cases hf : s.fetch with
  | none => simp [unloadedWordFaults s hf] at h
  | some w => exact ⟨decode w, step_of_fetch hf ▸ h⟩

end Next

/-- Settles O52: the step is one instruction, and its end moves SP within its range. -/
theorem stepKeepsInvariant : Obligations.StepKeepsInvariant := by
  intro s t hs hstep
  obtain ⟨i, hexec⟩ := exists_exec_of_step hstep
  exact exec_keeps_inv hexec hs

/-- Settles O55, by induction on the run. -/
theorem programMemoryIsConstant : Obligations.ProgramMemoryIsConstant := by
  intro s t hrun
  induction hrun with
  | here => exact ⟨rfl, rfl⟩
  | step _ hstep ih =>
    obtain ⟨i, hexec⟩ := exists_exec_of_step hstep
    obtain ⟨hpm, hcfg⟩ := exec_keeps_program hexec
    exact ⟨hpm.trans ih.1, hcfg.trans ih.2⟩

/-- Settles O56: no end moves a flag, and the work keeps those that are not listed. -/
theorem onlyListedFlagWriters : Obligations.OnlyListedFlagWriters := by
  intro i s t hexec
  obtain ⟨u, hk, he⟩ := exec_next hexec
  obtain ⟨-, -, hc, hz, hv⟩ := he.fixed
  exact ⟨fun hw => hc.trans (hk.c hw), fun hw => hz.trans (hk.z hw), fun hw => hv.trans (hk.v hw)⟩

/-- Settles O57. -/
theorem onlyListedBranches : Obligations.OnlyListedBranches := by
  intro i s t hexec hb
  obtain ⟨u, hk, he⟩ := exec_next hexec
  exact he.pc hk hb

/-- Settles O58. -/
theorem onlyCallAndReturnMoveSp : Obligations.OnlyCallAndReturnMoveSp := by
  intro i s t hexec
  obtain ⟨u, hk, he⟩ := exec_next hexec
  exact (he.sp hk).imp_right (.imp_left fun ⟨hup, _, hjsr⟩ => ⟨hup, hjsr⟩)

/-- Settles O60: of the seven ends two stop where no setting refuses, a call without room and RET at level 0. -/
theorem instructionsComplete : Obligations.InstructionsComplete := by
  intro i s hscope hsfr
  obtain ⟨u, hk, he⟩ := exec_ends i s
  generalize exec i s = r at he ⊢
  cases he with
  | calls x hjsr hr =>
    rcases Nat.lt_or_ge u.sp u.cfg.stackDepth with hroom | hfull
    · exact .inl ⟨_, hr.symm.trans (u.subroutineCall_room hroom)⟩
    · refine .inr (.inr ⟨hr.symm.trans (u.subroutineCall_full hfull), ?_, hjsr⟩)
      rwa [hk.cfg, hk.sp] at hfull
  | underflows n hret hsp => exact .inr (.inl ⟨rfl, hsp, n, hret⟩)
  | refuses f hset => exact absurd hset (not_or.mpr ⟨hscope, hsfr⟩)
  | advances | branches | jumps | returns => exact .inl ⟨_, rfl⟩

/-- Settles O40. -/
theorem returnAtLevelZeroFaults : Obligations.ReturnAtLevelZeroFaults := fun n _ hsp => execRet_level0 n hsp

/-- Settles O53: at reset both memories are empty and SP is 0, and the two presumed parameters are in range. -/
theorem resetHasInvariant : Obligations.ResetHasInvariant := by
  refine ⟨⟨rfl, rfl, Nat.zero_le _⟩, ?_⟩
  unfold Params.Valid
  decide

/-- Settles O54. -/
theorem resetStartsAtLevelZero : Obligations.ResetStartsAtLevelZero := ⟨fun _ => ⟨rfl, rfl⟩, rfl, rfl⟩

end Sys2Proof.Machine

/-! ### Reads and writes of data memory (20_memory.md R50 to R59, 10_state.md R32, R33) -/

namespace Sys2Proof.Machine

/-! #### The canonical form -/

/-- Where the listed addresses start above `a`, nothing is listed at `a`. -/
theorem Memory.find?_of_rising {w : Nat} {m : List (Nat × BitVec w)} {a lo hi : Nat}
    (h : Memory.rising lo hi m = true) (ha : a < lo) : Memory.find? m a = none := by
  induction m generalizing lo with
  | nil => rfl
  | cons e m ih =>
    simp only [Memory.rising, Bool.and_eq_true, decide_eq_true_eq] at h
    obtain ⟨⟨hlo, -⟩, hm⟩ := h
    rw [Memory.find?, if_neg (by omega), ih hm (by omega)]

/-- The canonical form from an address `lo` on: it holds of every tail of a canonical memory. -/
def Memory.CanonicalFrom (lo : Nat) (m : DataMemory) : Prop :=
  Memory.rising lo Memory.dataSize m = true ∧ ∀ e ∈ m, e.2 ≠ Memory.blank

theorem Memory.canonicalFrom_of_wf {m : DataMemory} (h : Memory.wf m = true) : Memory.CanonicalFrom 0 m := by
  simpa [Memory.wf, Memory.CanonicalFrom] using h

theorem Memory.canonicalFrom_cons {lo a : Nat} {v : Nibble} {m : DataMemory} :
    Memory.CanonicalFrom lo ((a, v) :: m) ↔
      (lo ≤ a ∧ a < Memory.dataSize) ∧ v ≠ Memory.blank ∧ Memory.CanonicalFrom (a + 1) m := by
  simp [Memory.CanonicalFrom, Memory.rising]; tauto

/-- Below the listed addresses every cell is blank. -/
theorem Memory.read_below {lo a : Nat} {m : DataMemory} (h : Memory.CanonicalFrom lo m) (ha : a < lo) :
    Memory.read m a = Memory.blank := by
  rw [Memory.read, Memory.find?_of_rising h.1 ha, Option.getD_none]

@[simp] theorem Memory.read_cons_same (a : Nat) (v : Nibble) (m : DataMemory) : Memory.read ((a, v) :: m) a = v := by
  simp [Memory.read, Memory.find?]

theorem Memory.read_cons_other {a b : Nat} (h : b ≠ a) (v : Nibble) (m : DataMemory) :
    Memory.read ((a, v) :: m) b = Memory.read m b := by
  simp [Memory.read, Memory.find?, h]

/-- A canonical memory whose cells are all blank lists nothing. -/
theorem Memory.eq_nil_of_blank {lo : Nat} {m : DataMemory} (h : Memory.CanonicalFrom lo m)
    (hm : ∀ a, Memory.read m a = Memory.blank) : m = [] := by
  cases m with
  | nil => rfl
  | cons e m =>
    obtain ⟨-, hv, -⟩ := Memory.canonicalFrom_cons.mp h
    exact absurd ((Memory.read_cons_same e.1 e.2 m).symm.trans (hm e.1)) hv

/-- The first listed address of two canonical memories that read alike is the same: the other memory is blank below its
own first address. -/
theorem Memory.head_le {lo a b : Nat} {v u : Nibble} {m n : DataMemory} (hm : Memory.CanonicalFrom lo ((a, v) :: m))
    (hn : Memory.CanonicalFrom lo ((b, u) :: n))
    (hread : ∀ c, Memory.read ((a, v) :: m) c = Memory.read ((b, u) :: n) c) : b ≤ a := by
  obtain ⟨-, hv, -⟩ := Memory.canonicalFrom_cons.mp hm
  obtain ⟨hb, hu, hn'⟩ := Memory.canonicalFrom_cons.mp hn
  by_contra hlt
  have hblank : Memory.read ((b, u) :: n) a = Memory.blank :=
    Memory.read_below (Memory.canonicalFrom_cons.mpr ⟨⟨le_rfl, hb.2⟩, hu, hn'⟩) (Nat.lt_of_not_le hlt)
  exact hv (by rw [← hblank, ← hread, Memory.read_cons_same])

/-- Settles O51, by induction on the one list with the other at every start: the heads are the first addresses that are not
blank, and below them the tails are blank. -/
theorem canonicalMemoryIsUnique : Obligations.CanonicalMemoryIsUnique := by
  intro m n hm hn
  replace hm := Memory.canonicalFrom_of_wf hm
  replace hn := Memory.canonicalFrom_of_wf hn
  generalize 0 = lo at hm hn
  induction m generalizing lo n with
  | nil => exact fun hread => (Memory.eq_nil_of_blank hn fun a => (hread a).symm).symm
  | cons e m ih =>
    obtain ⟨a, v⟩ := e
    cases n with
    | nil => exact fun hread => Memory.eq_nil_of_blank hm hread
    | cons f n =>
      obtain ⟨b, u⟩ := f
      intro hread
      obtain rfl : a = b := le_antisymm (Memory.head_le hn hm fun c => (hread c).symm) (Memory.head_le hm hn hread)
      obtain rfl : v = u := by simpa using hread a
      obtain ⟨-, -, hm'⟩ := Memory.canonicalFrom_cons.mp hm
      obtain ⟨-, -, hn'⟩ := Memory.canonicalFrom_cons.mp hn
      have htails : m = n := ih n (a + 1) hm' hn' fun c => by
        rcases eq_or_ne c a with rfl | hc
        · rw [Memory.read_below hm' (Nat.lt_succ_self c), Memory.read_below hn' (Nat.lt_succ_self c)]
        · simpa [Memory.read_cons_other hc] using hread c
      rw [htails]

/-! #### The ports and page 15 -/

theorem inPage15_iff {a : DataAddr} : inPage15 a = true ↔ 0xF0 ≤ a.toNat := by
  revert a; decide

section Ports
variable (s : State)

theorem State.ports_low (h : s.wrFlags1 = false) : s.inAddr = 0x0B ∧ s.outAddr = 0x0A := by
  simp [State.inAddr, State.outAddr, h]

theorem State.ports_high (h : s.wrFlags1 = true) : s.inAddr = 0xFB ∧ s.outAddr = 0xFA := by
  simp [State.inAddr, State.outAddr, h]

/-- A page-15 cell that reads as a free value (R59). -/
theorem State.drawsAt_iff {a : DataAddr} :
    s.drawsAt a = true ↔ 0xF0 ≤ a.toNat ∧ a ≠ s.cfg.wrflagsAddr ∧ a ≠ s.outAddr := by
  simp [State.drawsAt, inPage15_iff, and_assoc]

theorem State.readInput_cons {x : Nibble} {rest : List Nibble} (h : s.inputs = x :: rest) :
    s.readInput = ⟨x, s.setInputs rest⟩ := by simp [State.readInput, h]

theorem State.readInput_nil (h : s.inputs = []) : s.readInput = s.drawNibble := by simp [State.readInput, h]

theorem State.eventsOf_eq (a : DataAddr) (x : Nibble) :
    s.eventsOf a x = if a = s.outAddr ∨ 0xF0 ≤ a.toNat then [⟨a, x⟩] else [] := by
  simp [State.eventsOf, inPage15_iff]

end Ports

/-- Settles O47. -/
theorem portsFollowWrflags : Obligations.PortsFollowWrflags := fun s => ⟨s.ports_low, s.ports_high⟩

/-- Settles O48: the three branches of a read, the port with and without a supplied input. -/
theorem readsOfDataMemory : Obligations.ReadsOfDataMemory := by
  intro s a _
  refine ⟨?input, ?noInput, ?page15, ?plain⟩
  case input =>
    rintro rfl x rest hin
    rw [s.memRead_in, s.readInput_cons hin, State.setInputs]
  case noInput =>
    rintro rfl hin
    rw [s.memRead_in, s.readInput_nil hin, State.drawNibble, State.setDraws]
  case page15 =>
    intro hi hpage hw ho
    rw [s.memRead_draw hi (s.drawsAt_iff.mpr ⟨hpage, hw, ho⟩), State.drawNibble, State.setDraws]
  case plain =>
    intro hi hcase
    refine s.memRead_plain hi (Bool.eq_false_iff.mpr fun hd => ?_)
    obtain ⟨hpage, hw, ho⟩ := s.drawsAt_iff.mp hd
    rcases hcase with h | h | h
    exacts [absurd hpage (Nat.not_le.mpr h), hw h, ho h]

/-- Settles O50. -/
theorem writesOfDataMemory : Obligations.WritesOfDataMemory := fun s a x =>
  ⟨s.cell_memWrite_same a x, fun b => s.cell_memWrite_other a b x, by rw [State.memWrite_outputs, State.eventsOf_eq]⟩

/-! #### Register operands -/

section Registers
variable (s : State)

/-- A register that is not the IN location reads as its cell (R21). -/
theorem State.readReg_cell {x : RegNum} (h : regAddr x ≠ s.inAddr) : s.readReg x = ⟨s.cell (regAddr x), s⟩ :=
  s.memRead_plain h (s.drawsAt_regAddr x)

/-- The register that is the IN location reads as the input (R58). -/
theorem State.readReg_in {x : RegNum} (h : regAddr x = s.inAddr) : s.readReg x = s.readInput := by
  rw [State.readReg, h, s.memRead_in]

/-- Taking an input leaves IN where it is, and every cell. -/
theorem State.readReg_readInput {x : RegNum} (h : regAddr x ≠ s.inAddr) :
    s.readInput.state.readReg x = ⟨s.cell (regAddr x), s.readInput.state⟩ := by
  have hin : s.readInput.state.inAddr = s.inAddr := by
    rw [← s.memRead_in]; exact State.inAddr_congr (s.memRead_dm _) (s.memRead_cfg _)
  have hcell : s.readInput.state.cell (regAddr x) = s.cell (regAddr x) := by rw [← s.memRead_in, State.cell_memRead]
  rw [State.readReg_cell _ (by rwa [hin]), hcell]

end Registers

/-- Settles O49: at most one of two different registers is the IN location. -/
theorem registerOperandReads : Obligations.RegisterOperandReads := by
  intro s x y
  refine ⟨fun hx hy => ?plain, by simp [State.readPair], fun hx hne => ?firstIn, fun hy hne => ?secondIn⟩
  case plain =>
    simp only [State.readPair, s.readReg_cell hx, s.readReg_cell hy]
    split_ifs with h <;> simp [h]
  case firstIn =>
    have hy : regAddr y ≠ s.inAddr := fun hy => hne (regAddr_injective (hx.trans hy.symm))
    simp only [State.readPair, if_neg hne.symm, s.readReg_in hx, s.readReg_readInput hy]
  case secondIn =>
    have hx : regAddr x ≠ s.inAddr := fun hx => hne (regAddr_injective (hx.trans hy.symm))
    simp only [State.readPair, if_neg hne.symm, s.readReg_cell hx, s.readReg_in hy]

end Sys2Proof.Machine

/-! ### Arithmetic: two registers, and the literal forms (40_alu_register.md R100 to R104, 43_short_00_07.md R150 to R154)

What the flag computations give is said once, each field as the statements word it; the instructions are the shared
operations at them. -/

namespace Sys2Proof.Machine

/-! #### The flag computations (R100) -/

section FlagComputations
variable (a b : Nibble) (c : Bool)

/-- The meaning of overflow: the exact signed result lies outside -8 to 7 (G5). -/
theorem signedOverflow_eq (t : Int) : signedOverflow t = decide (t < -8 ∨ 7 < t) := by
  simp [signedOverflow]

theorem addFlags_r : (addFlags a b c).r = a + b + BitVec.ofNat 4 c.toNat := by
  simp [addFlags, BitVec.ofNat_add]

theorem addFlags_c : (addFlags a b c).c = decide (15 < a.toNat + b.toNat + c.toNat) := rfl

theorem addFlags_z : (addFlags a b c).z = zeroFlag (addFlags a b c).r := rfl

theorem addFlags_v : (addFlags a b c).v =
    decide (a.toInt + b.toInt + c.toNat < -8 ∨ 7 < a.toInt + b.toInt + c.toNat) := signedOverflow_eq _

/-- The exact difference is taken with the borrow, the complement of the carry (R29). -/
theorem borrow_eq : (1 : Int) - c.toNat = (!c).toNat := by cases c <;> rfl

theorem nibble_ofInt_sub (m n : Int) : BitVec.ofInt 4 (m - n) = BitVec.ofInt 4 m - BitVec.ofInt 4 n := by
  rw [sub_eq_add_neg, BitVec.ofInt_add, BitVec.ofInt_neg, sub_eq_add_neg]

theorem subFlags_r : (subFlags a b c).r = a - b - BitVec.ofNat 4 (!c).toNat := by
  simp only [subFlags, borrow_eq, nibble_ofInt_sub, BitVec.ofInt_natCast, BitVec.ofNat_toNat, BitVec.setWidth_eq]

theorem subFlags_c : (subFlags a b c).c = decide (b.toNat + (!c).toNat ≤ a.toNat) := by
  simp only [subFlags, borrow_eq, decide_eq_decide]
  omega

theorem subFlags_z : (subFlags a b c).z = zeroFlag (subFlags a b c).r := rfl

theorem subFlags_v : (subFlags a b c).v =
    decide (a.toInt - b.toInt - (!c).toNat < -8 ∨ 7 < a.toInt - b.toInt - (!c).toNat) := by
  simp only [subFlags, borrow_eq, signedOverflow_eq]

end FlagComputations

/-- Settles O14: 512 cases, evaluated. -/
theorem flagBitForms : Obligations.FlagBitForms := by
  unfold Obligations.FlagBitForms
  decide

/-! #### ADD, ADC, SUB and SBB of two registers -/

/-- An instruction whose meaning is `State.arith` writes RX alone and all three flags, and goes on at the next word
(R100). -/
theorem exec_arith_plain {i : Instr} {x y : RegNum} {s : State} {f : Nibble → Nibble → AluResult}
    (hexec : exec i s = s.arith x y f) (hplain : s.PlainDest x) :
    let p := s.readPair x y
    let r := f p.x p.y
    ∃ t, exec i s = .next t ∧ s.WroteCell p.state (regAddr x) r.r (s.pc + 1) t ∧
      t.c = r.c ∧ t.z = r.z ∧ t.v = r.v := by
  obtain ⟨t, hnext, hrest⟩ := s.arith_plain (y := y) f hplain
  exact ⟨t, hexec.trans hnext, hrest⟩

/-- Settles O7. -/
theorem addRegisters : Obligations.AddRegisters := by
  intro x y s hplain p
  obtain ⟨t, hnext, hwrote, hc, hz, hv⟩ := exec_arith_plain (exec_addRxRy x y s) hplain
  simp only [addFlags_z, addFlags_r, addFlags_c, addFlags_v] at hwrote hc hz hv
  exact ⟨t, hnext, by simpa using hwrote, by simp [hc, p], by simp [hz, p], by simp [hv, p]⟩

/-- Settles O8: the carry of the statement is the old C as a number. -/
theorem addRegistersWithCarry : Obligations.AddRegistersWithCarry := by
  intro x y s hplain p carry r
  obtain ⟨t, hnext, hwrote, hc, hz, hv⟩ := exec_arith_plain (exec_adcRxRy x y s) hplain
  have hcarry : s.c.toNat = carry := by cases h : s.c <;> simp [carry, h]
  simp only [addFlags_z, addFlags_r, addFlags_c, addFlags_v, hcarry] at hwrote hc hz hv
  exact ⟨t, hnext, hwrote, by simp [hc, p], by rw [hz, zeroFlag_eq_true_iff], by simp [hv, p]⟩

/-- Settles O9. -/
theorem subtractRegisters : Obligations.SubtractRegisters := by
  intro x y s hplain p
  obtain ⟨t, hnext, hwrote, hc, hz, hv⟩ := exec_arith_plain (exec_subRxRy x y s) hplain
  simp only [subFlags_z, subFlags_r, subFlags_c, subFlags_v] at hwrote hc hz hv
  exact ⟨t, hnext, by simpa using hwrote, by simp [hc, p], by simp [hz, p], by simp [hv, p]⟩

/-- Settles O10: the borrow of the statement is the complement of the old C as a number. -/
theorem subtractRegistersWithBorrow : Obligations.SubtractRegistersWithBorrow := by
  intro x y s hplain p borrow r
  obtain ⟨t, hnext, hwrote, hc, hz, hv⟩ := exec_arith_plain (exec_sbbRxRy x y s) hplain
  have hborrow : (!s.c).toNat = borrow := by cases h : s.c <;> simp [borrow, h]
  simp only [subFlags_z, subFlags_r, subFlags_c, subFlags_v, hborrow] at hwrote hc hz hv
  exact ⟨t, hnext, hwrote, by simp [hc, p], by rw [hz, zeroFlag_eq_true_iff], by simp [hv, p]⟩

/-! #### CP, ADD R0,N, INC and DSZ -/

/-- Modulo 16 a difference is 0 exactly where the operands are equal. -/
theorem zeroFlag_sub (a b : Nibble) : zeroFlag (a - b) = decide (a = b) := by
  rw [Bool.eq_iff_iff, zeroFlag_eq_true_iff, sub_eq_zero, decide_eq_true_iff]

/-- Settles O27: the flags of the difference R0 - N, and nothing written. -/
theorem compareLiteral : Obligations.CompareLiteral := by
  refine ⟨fun _ => rfl, fun n s => ?_⟩
  have hc := subFlags_c (s.cell 0x00) n true
  have hz : (subFlags (s.cell 0x00) n true).z = decide (s.cell 0x00 = n) := by
    simp [subFlags_z, subFlags_r, zeroFlag_sub]
  have hv := subFlags_v (s.cell 0x00) n true
  simp only [Bool.not_true, Bool.toNat_false, Nat.add_zero, Nat.cast_zero, sub_zero] at hc hv
  simp only [exec_cp, execCp, State.readReg_zero, hc, hz, hv]
  split_ifs <;> rfl

/-- V written under a parameter, as one write. -/
theorem State.setV_if (s : State) (p : Bool) (x : Bool) :
    (if p then s.setV x else s) = s.setV (if p then x else s.v) := by
  cases p <;> rfl

/-- C drawn under a parameter, as one write of C and of the count of draws. -/
theorem State.drawC_if (s : State) (p : Bool) : (if p then s.drawC else s) =
    (s.setC (if p then (Config.draw s.draws).getLsbD 0 else s.c)).setDraws (if p then s.draws + 1 else s.draws) := by
  cases p <;> rfl

/-- Free values drawn under a parameter, as one count of draws. -/
theorem State.setDraws_if (s : State) (p : Bool) (k : Nat) :
    (if p then s.setDraws k else s) = s.setDraws (if p then k else s.draws) := by
  cases p <;> rfl

@[simp] theorem State.eventsOf_setDraws (s : State) (k : Nat) (a : DataAddr) (x : Nibble) :
    (s.setDraws k).eventsOf a x = s.eventsOf a x := rfl

/-- What ADD R0,N answers (R151). -/
theorem execAddR0N_next (n : Nibble) (s : State) :
    let r := addFlags (s.cell 0x00) n false
    ∃ t, execAddR0N n s = .next t ∧ s.WroteCell s 0x00 r.r (s.pc + 1) t ∧ t.c = r.c ∧ t.z = r.z ∧
      t.v = if s.cfg.addiWritesV then r.v else s.v := by
  intro r
  refine ⟨((((s.writeReg 0 r.r).setC r.c).setZ r.z).setV (if s.cfg.addiWritesV then r.v else s.v)).advance, ?_, ?_,
    rfl, rfl, rfl⟩
  · simp only [execAddR0N, State.readReg_zero, State.setV_if]
    rfl
  · apply State.wroteCell_of <;> simp [State.writeReg, State.npc, regAddr]

/-- Settles O28. -/
theorem addLiteral : Obligations.AddLiteral := by
  intro n s a
  obtain ⟨t, hnext, hwrote, hc, hz, hv⟩ := execAddR0N_next n s
  simp only [addFlags_z, addFlags_r, addFlags_c, addFlags_v] at hwrote hc hz hv
  refine ⟨t, (exec_addR0N n s).trans hnext, by simpa [a] using hwrote, by simp [hc, a], by simp [hz, a], fun hp => ?_,
    fun hp => ?_⟩ <;> simp [hv, hp, a]

/-- Modulo 16, an increment gives 0 from 15 alone (R152). -/
theorem zeroFlag_add_one_iff (a : Nibble) : zeroFlag (a + 1) = true ↔ a = 15 := by
  revert a; decide

/-- INC, with the draw of C under its parameter as one write of C and of the count of draws (R152). -/
theorem exec_inc_eq (y : RegNum) (s : State) : exec (.inc y) s =
    let r := s.readReg y
    (((r.state.writeReg y (r.value + 1)).setZ (zeroFlag (r.value + 1))).setC
        (if s.cfg.incWritesC then (Config.draw r.state.draws).getLsbD 0 else s.c)
      |>.setDraws (if s.cfg.incWritesC then r.state.draws + 1 else r.state.draws)).endAt y (r.value + 1) s.npc := by
  rw [exec_inc, execInc, State.drawC_if]
  simp

/-- What INC answers when its destination is plain (R129, R152). -/
theorem exec_inc_plain {y : RegNum} {s : State} (hplain : s.PlainDest y) :
    let r := s.readReg y
    ∃ t, exec (.inc y) s = .next t ∧
      s.WroteCell (if s.cfg.incWritesC then r.state.setDraws (r.state.draws + 1) else r.state) (regAddr y) (r.value + 1)
        (s.pc + 1) t ∧
      t.z = zeroFlag (r.value + 1) ∧ t.v = s.v ∧
      t.c = if s.cfg.incWritesC then (Config.draw r.state.draws).getLsbD 0 else s.c := by
  intro r
  rw [State.setDraws_if, exec_inc_eq]
  refine ⟨_, State.endAt_plain _ (by simpa [State.PlainDest] using hplain) (by simp [State.npc]), ?_, by simp [r],
    by simp, by simp [r]⟩
  apply State.wroteCell_of <;> simp [State.writeReg, State.npc, r]

/-- Settles O29. -/
theorem increment : Obligations.Increment := by
  refine ⟨fun _ => rfl, fun y s hplain => ?_⟩
  obtain ⟨t, hnext, hwrote, hz, hv, hc⟩ := exec_inc_plain hplain
  exact ⟨t, hnext, hwrote, by rw [hz, zeroFlag_add_one_iff], hv, hc⟩

/-- Where DSZ goes on when its destination is plain: past the next word where the result is 0, but never from JSR or PCL
(R129, R154; log 8). -/
theorem execDsz_plain {y : RegNum} {s : State} (hplain : s.PlainDest y) :
    let r := s.readReg y
    let pc := if r.value - 1 = 0 ∧ isPcReg y = false then s.npc + 1 else s.npc
    execDsz y s = .next ((r.state.writeReg y (r.value - 1)).setPc pc) := by
  intro r pc
  cases hy : isPcReg y
  · simp [execDsz, State.endAt_other _ hy, pc, hy, r]
  · have hscope : s.cfg.pcwriteScope = .movOnlyElsePlain := by simpa [State.PlainDest, hy] using hplain
    simp only [execDsz]
    rw [State.endAt_plainPc _ hy (by simpa using hscope)]
    simp [pc, hy, r, State.advance, State.npc]

/-- Settles O31. -/
theorem decrementSkipIfZero : Obligations.DecrementSkipIfZero := by
  refine ⟨fun _ => rfl, fun y s hplain =>
    ⟨_, (exec_dsz y s).trans (execDsz_plain hplain), by simp [State.SameFlags], ?_⟩⟩
  have hskip : s.npc + 1 = s.pc + 2 := by rw [State.npc, add_assoc]; rfl
  apply State.wroteCell_of
  case h₂ => rw [State.setPc_pc, hskip, State.npc]; simp only [sub_eq_zero]
  all_goals simp [State.writeReg]

end Sys2Proof.Machine

/-! ### MOV to a register, the Program Jump, the Subroutine Call and RET (41_mov.md R120 to R130, 44_short_08_0F.md R177)

Both MOVs to a register write a value in the state `r` after the source is read, which for a literal is the state itself,
and end in one of three ways. Each way is said once for any such `r`. -/

namespace Sys2Proof.Machine

/-- `r` is `s` after some reads: inputs and free values may have been taken, and nothing else has changed. -/
def State.AfterReads (s r : State) : Prop := ∃ inputs draws, r = (s.setInputs inputs).setDraws draws

theorem State.afterReads_self (s : State) : s.AfterReads s := ⟨s.inputs, s.draws, rfl⟩

theorem State.afterReads_readReg (s : State) (x : RegNum) : s.AfterReads (s.readReg x).state := s.memRead_state _

theorem State.endMov_other (s : State) {x : RegNum} (v : Nibble) (h : isPcReg x = false) :
    s.endMov x v = .next s.advance := by simp [State.endMov, h]

theorem State.endMov_pcl (s : State) (v : Nibble) : s.endMov RegNum.pcl v = .next (s.programJump v) := rfl

theorem State.endMov_jsr (s : State) (v : Nibble) : s.endMov RegNum.jsr v = s.subroutineCall v := rfl

section MovEnds
variable {s r : State}

/-- What the write of a MOV does before it ends. -/
theorem State.AfterReads.wrote (hr : s.AfterReads r) (x : RegNum) (v : Nibble) :
    s.WroteCell r (regAddr x) v s.pc (r.writeReg x v) ∧ s.SameFlags (r.writeReg x v) := by
  obtain ⟨inputs, draws, rfl⟩ := hr
  refine ⟨?_, by simp [State.SameFlags]⟩
  apply State.wroteCell_of <;> simp [State.writeReg]

/-- The frame of a write does not fix the program counter. -/
theorem State.WroteCell.setPc {u : State} {a : DataAddr} {v : Nibble} {pc : ProgAddr} (h : s.WroteCell r a v pc u)
    (pc' : ProgAddr) : s.WroteCell r a v pc' (u.setPc pc') := by
  obtain ⟨hcell, -, hframe⟩ := h
  exact ⟨hcell, rfl, hframe⟩

/-- The target of a jump or call is read after the write of PCL or JSR, which leaves R14 and R15 (R127, R128). -/
theorem State.WroteCell.transferTarget {u : State} {a : DataAddr} {v : Nibble} {pc : ProgAddr}
    (h : s.WroteCell r a v pc u) (ha : a = 0x0C ∨ a = 0x0D) (w : Nibble) :
    u.transferTarget w = s.cell 0x0F ++ s.cell 0x0E ++ w := by
  obtain ⟨-, -, ⟨hother, -⟩, -⟩ := h
  have hpch : u.cell 0x0F = s.cell 0x0F := hother _ (by rcases ha with rfl | rfl <;> decide)
  have hpcm : u.cell 0x0E = s.cell 0x0E := hother _ (by rcases ha with rfl | rfl <;> decide)
  rw [← hpch, ← hpcm]
  rfl

/-- A MOV to a register other than JSR and PCL. -/
theorem State.AfterReads.mov_other (hr : s.AfterReads r) {x : RegNum} (v : Nibble) (hx : isPcReg x = false) :
    ∃ t, (r.writeReg x v).endMov x v = .next t ∧ s.WroteCell r (regAddr x) v (s.pc + 1) t ∧ s.SameFlags t := by
  obtain ⟨hwrote, hflags⟩ := hr.wrote x v
  have hnpc : (r.writeReg x v).npc = s.pc + 1 := by
    obtain ⟨-, hpc, -⟩ := hwrote
    exact congrArg (· + 1) hpc
  exact ⟨_, State.endMov_other _ v hx, hnpc ▸ hwrote.setPc _, hflags⟩

/-- A MOV to PCL is a Program Jump (R127). -/
theorem State.AfterReads.mov_pcl (hr : s.AfterReads r) (v : Nibble) :
    ∃ t, (r.writeReg RegNum.pcl v).endMov RegNum.pcl v = .next t ∧
      s.WroteCell r 0x0D v (s.cell 0x0F ++ s.cell 0x0E ++ v) t ∧ s.SameFlags t := by
  obtain ⟨hwrote, hflags⟩ := hr.wrote RegNum.pcl v
  have htarget := hwrote.transferTarget (.inr rfl) v
  exact ⟨_, State.endMov_pcl _ v, htarget ▸ hwrote.setPc _, hflags⟩

end MovEnds

/-- Settles O15. -/
theorem movRegister : Obligations.MovRegister := by
  intro x y s hx
  rw [exec_movRxRy]
  exact (s.afterReads_readReg y).mov_other _ hx

/-- Settles O16. -/
theorem movLiteral : Obligations.MovLiteral := by
  intro x n s hx
  rw [exec_movRxN]
  exact s.afterReads_self.mov_other n hx

/-- Settles O17. -/
theorem programJump : Obligations.ProgramJump := by
  refine fun s => ⟨fun n => ?_, fun y => ?_⟩
  · rw [exec_movRxN]
    exact s.afterReads_self.mov_pcl n
  · rw [exec_movRxRy]
    exact (s.afterReads_readReg y).mov_pcl _

/-! #### The Subroutine Call -/

/-- What a call from `s` with the value `v` leaves in `t`, where the source was read in taking `s` to `r` (R128). -/
def State.Called (s r t : State) (v : Nibble) : Prop :=
  t.pc = s.cell 0x0F ++ s.cell 0x0E ++ v ∧ t.sp = s.sp + 1 ∧ t.cell 0x0C = v ∧
    t.cell (stackAddr s.sp 0) = (s.pc + 1).extractLsb' 0 4 ∧ t.cell (stackAddr s.sp 1) = (s.pc + 1).extractLsb' 4 4 ∧
    t.cell (stackAddr s.sp 2) = (s.pc + 1).extractLsb' 8 4 ∧
    (∀ a, a ≠ 0x0C → a ≠ stackAddr s.sp 0 → a ≠ stackAddr s.sp 1 → a ≠ stackAddr s.sp 2 → t.cell a = s.cell a) ∧
    t.pm = s.pm ∧ t.cfg = s.cfg ∧ s.SameFlags t ∧ s.Outside r t []

/-- A push leaves every register (R57). -/
theorem State.cell_pushReturn_low (s : State) (ra : ProgAddr) (h : s.sp < 74) {a : DataAddr} (ha : a.toNat < 16) :
    (s.pushReturn ra).cell a = s.cell a := by
  obtain ⟨-, -, -, hother, -⟩ := s.pushReturn_cells ra h
  exact hother a (stackAddr_ne h (by simp) a (.inl ha)) (stackAddr_ne h (by simp) a (.inl ha))
    (stackAddr_ne h (by simp) a (.inl ha))

theorem State.transferTarget_pushReturn (s : State) (ra : ProgAddr) (v : Nibble) (h : s.sp < 74) :
    (s.pushReturn ra).transferTarget v = s.transferTarget v := by
  rw [State.transferTarget, s.cell_pushReturn_low ra h (by decide), s.cell_pushReturn_low ra h (by decide)]
  rfl

section Call
variable {s r : State}

/-- A Subroutine Call after R12 is written, with room on the stack: it pushes the address of the next word (R128). -/
theorem State.WroteCell.subroutineCall {u : State} {v : Nibble} (h : s.WroteCell r 0x0C v s.pc u) (hflags : s.SameFlags u)
    (hdepth : s.sp < 74) (hroom : s.sp < s.cfg.stackDepth) :
    ∃ t, u.subroutineCall v = .next t ∧ s.Called r t v := by
  have htarget := h.transferTarget (.inl rfl) v
  obtain ⟨hjsr, hpc, ⟨hcell, hsp, hpm, hcfg⟩, hin, hdraws, hout⟩ := h
  have hnpc : u.npc = s.pc + 1 := congrArg (· + 1) hpc
  have hevent : s.eventsOf 0x0C v = [] := s.eventsOf_none v (by decide) (by decide)
  have hpush := u.pushReturn_cells u.npc (hsp ▸ hdepth)
  have hlow := u.cell_pushReturn_low u.npc (hsp ▸ hdepth) (a := 0x0C) (by decide)
  rw [hsp, hnpc] at hpush
  rw [hnpc] at hlow
  obtain ⟨h0, h1, h2, hother, hpout, hpin, hpdraws⟩ := hpush
  refine ⟨_, u.subroutineCall_room (by rwa [hsp, hcfg]), ?_⟩
  rw [u.transferTarget_pushReturn _ v (hsp ▸ hdepth), htarget, hsp, hnpc]
  rw [hevent] at hout
  have hframe := fun a ha ha0 ha1 ha2 => (hother a ha0 ha1 ha2).trans (hcell a ha)
  have hflags' : s.SameFlags (u.pushReturn (s.pc + 1)) := by simpa [State.SameFlags] using hflags
  exact ⟨rfl, rfl, hlow.trans hjsr, h0, h1, h2, hframe, by simpa using hpm, by simpa using hcfg, hflags', hpin.trans hin,
    hpdraws.trans hdraws, hpout.trans hout⟩

/-- A MOV to JSR is a Subroutine Call. -/
theorem State.AfterReads.mov_jsr (hr : s.AfterReads r) (v : Nibble) (hvalid : s.cfg.Valid)
    (hroom : s.sp < s.cfg.stackDepth) :
    ∃ t, (r.writeReg RegNum.jsr v).endMov RegNum.jsr v = .next t ∧ s.Called r t v := by
  obtain ⟨hwrote, hflags⟩ := hr.wrote RegNum.jsr v
  obtain ⟨-, hdepth, -⟩ := hvalid
  rw [State.endMov_jsr]
  exact hwrote.subroutineCall hflags (hroom.trans_le hdepth) hroom

/-- A MOV to JSR at a full stack is the fault (R204). -/
theorem State.AfterReads.mov_jsr_full (hr : s.AfterReads r) (v : Nibble) (hfull : s.cfg.stackDepth ≤ s.sp) :
    (r.writeReg RegNum.jsr v).endMov RegNum.jsr v = .fault .stackOverflow := by
  obtain ⟨⟨-, -, ⟨-, hsp, -, hcfg⟩, -⟩, -⟩ := hr.wrote RegNum.jsr v
  rw [State.endMov_jsr]
  exact State.subroutineCall_full _ (by rwa [hsp, hcfg])

end Call

/-- Settles O18. -/
theorem subroutineCall : Obligations.SubroutineCall := by
  refine fun s hvalid hroom => ⟨fun n => ?_, fun y => ?_⟩
  · rw [exec_movRxN]
    exact s.afterReads_self.mov_jsr n hvalid hroom
  · rw [exec_movRxRy]
    exact (s.afterReads_readReg y).mov_jsr _ hvalid hroom

/-- Settles O19. -/
theorem callAtFullStackFaults : Obligations.CallAtFullStackFaults := by
  refine fun s hfull => ⟨fun n => ?_, fun y => ?_⟩
  · rw [exec_movRxN]
    exact s.afterReads_self.mov_jsr_full n hfull.ge
  · rw [exec_movRxRy]
    exact (s.afterReads_readReg y).mov_jsr_full _ hfull.ge

/-! #### RET -/

/-- Settles O39: the write of R0 is below the stack, so the pop reads the entry as it stood. -/
theorem returnFromSubroutine : Obligations.ReturnFromSubroutine := by
  intro n s hvalid hpos hle
  obtain ⟨-, hmax, -⟩ := hvalid
  have hdepth : s.sp - 1 < 74 := by omega
  have hentry : ∀ j < 3, (s.writeReg 0 n).cell (stackAddr (s.sp - 1) j) = s.cell (stackAddr (s.sp - 1) j) :=
    fun j hj => s.cell_writeReg_other _ n 0 (stackAddr_ne hdepth hj _ (by decide)).symm
  have hevent : s.eventsOf (regAddr 0) n = [] := s.eventsOf_regAddr (by decide) n
  refine ⟨_, (exec_ret n s).trans (execRet_above n hpos.ne'), ?_⟩
  rw [State.readReturn_plain _ hdepth, hentry 0 (by simp), hentry 1 (by simp), hentry 2 (by simp)]
  exact ⟨s.cell_writeReg_same n 0, rfl, rfl, fun a ha => s.cell_writeReg_other a n 0 ha, rfl, rfl, ⟨rfl, rfl, rfl⟩,
    rfl, rfl, congrArg (s.outputs ++ ·) hevent⟩

/-- Settles O41: the entry that RET reads is the one that the call wrote, and its three nibbles joined are the address of the
next word. -/
theorem returnUndoesCall : Obligations.ReturnUndoesCall := by
  intro s t u v n hvalid hcall hcfg hsp hentry
  have hroom : s.sp < s.cfg.stackDepth := ((s.writeReg RegNum.jsr v).subroutineCall_next hcall).1
  obtain ⟨t', hcall', -, hsp', -, h0, h1, h2, -, -, hcfg', -⟩ := (subroutineCall s hvalid hroom).1 v
  obtain rfl : t = t' := by rw [hcall] at hcall'; injection hcall'
  rw [hcfg'] at hcfg
  rw [hsp'] at hsp
  obtain ⟨w, hret, hR0, hwsp, hwpc, -⟩ := returnFromSubroutine n u (hcfg ▸ hvalid) (by omega) (by rw [hcfg]; omega)
  have hlevel : u.sp - 1 = s.sp := by omega
  rw [hlevel] at hwsp hwpc
  rw [hentry 0 (by simp), hentry 1 (by simp), hentry 2 (by simp), h0, h1, h2] at hwpc
  exact ⟨w, hret, hwpc.trans (wordOf_fields (s.pc + 1)), hwsp, hR0⟩

/-! #### Idioms (30_encoding.md R92, 41_mov.md R130) -/

theorem execAll_cons {i : Instr} {is : List Instr} {s t : State} (h : exec i s = .next t) :
    execAll (i :: is) s = execAll is t := by
  rw [execAll, h]

theorem execAll_one {i : Instr} {s t : State} (h : exec i s = .next t) : execAll [i] s = .next t := execAll_cons h

theorem State.SameFlags.trans {s t u : State} (h : s.SameFlags t) (h' : t.SameFlags u) : s.SameFlags u := by
  obtain ⟨hc, hz, hv⟩ := h
  obtain ⟨hc', hz', hv'⟩ := h'
  exact ⟨hc'.trans hc, hz'.trans hz, hv'.trans hv⟩

/-- Settles O42: MOV PC,NN puts the high nibbles into R15 and R14, and the Program Jump takes them from there. -/
theorem farJumpReaches : Obligations.FarJumpReaches := by
  intro h m l s
  obtain ⟨t, hload, hpair, -, ⟨-, htsp, -⟩, htflags, -⟩ := movPcLoadsPcmPch.2 (h ++ m) s
  obtain ⟨u, hjump, ⟨-, hpc, ⟨-, husp, -⟩, -⟩, huflags⟩ := (programJump t).1 l
  rw [hpair] at hpc
  exact ⟨u, (execAll_cons hload).trans (execAll_one hjump), hpc, husp.trans htsp, htflags.trans huflags⟩

/-- Where the value written is the one that the cell stored, no cell changes. -/
theorem State.WroteCell.cell_eq {s r t : State} {a : DataAddr} {v : Nibble} {pc : ProgAddr} (h : s.WroteCell r a v pc t)
    (hv : v = s.cell a) (b : DataAddr) : t.cell b = s.cell b := by
  obtain ⟨ha, -, ⟨hother, -⟩, -⟩ := h
  rcases eq_or_ne b a with rfl | hb
  exacts [ha.trans hv, hother b hb]

/-- Settles O43: OR with 0, AND with 15 and XOR with 0 give R0 back. -/
theorem carryIdioms : Obligations.CarryIdioms := by
  intro s
  obtain ⟨⟨t, hor, horw, horc, horz, -⟩, -⟩ := logicLiterals.2 0 s
  obtain ⟨-, ⟨u, hand, handw, handc, handz, -⟩, -⟩ := logicLiterals.2 15 s
  obtain ⟨-, -, ⟨w, hxor, hxorw, hxorc, hxorz, -⟩⟩ := logicLiterals.2 0 s
  have hones : s.cell 0x00 &&& 15 = s.cell 0x00 := BitVec.and_allOnes
  exact ⟨⟨t, hor, horc, by simpa using horz, horw.cell_eq BitVec.or_zero⟩,
    ⟨u, hand, handc, by rwa [hones] at handz, handw.cell_eq hones⟩,
    ⟨w, hxor, hxorc, by simpa using hxorz, hxorw.cell_eq BitVec.xor_zero⟩⟩

end Sys2Proof.Machine

/-! ### The exchange, the bit instructions and five rotations (44_short_08_0F.md R170 to R176) -/

namespace Sys2Proof.Machine

/-! #### EXR -/

section Exchange
variable {s t : State} {n : Nat}

theorem dataAddr_toNat {i : Nat} (h : i < 256) : (BitVec.ofNat 8 i).toNat = i := by
  rw [BitVec.toNat_ofNat, Nat.mod_eq_of_lt h]

theorem dataAddr_inj {i j : Nat} (hi : i < 256) (hj : j < 256) : BitVec.ofNat 8 i = BitVec.ofNat 8 j ↔ i = j := by
  rw [← BitVec.toNat_inj, dataAddr_toNat hi, dataAddr_toNat hj]

/-- The cells that EXR n exchanges (R170). -/
def exchanged (n : Nat) (a : DataAddr) : Prop := a.toNat < n ∨ (0xE0 ≤ a.toNat ∧ a.toNat < 0xE0 + n)

/-- Whether EXR n reads the IN port: R11 is exchanged, and IN is in page 0 (R58, R170). -/
def State.takesInput (s : State) (n : Nat) : Bool := decide (12 ≤ n) && !s.wrFlags1

/-- What `t` is after R0 to R(n-1) of `s` are exchanged (R170). -/
structure Exchanged (s t : State) (n : Nat) : Prop where
  low : ∀ i < n, t.cell (BitVec.ofNat 8 i) = s.cell (BitVec.ofNat 8 (0xE0 + i))
  high : ∀ i < n, t.cell (BitVec.ofNat 8 (0xE0 + i)) =
    if i = 11 ∧ s.wrFlags1 = false then s.readInput.value else s.cell (BitVec.ofNat 8 i)
  other : ∀ a, ¬exchanged n a → t.cell a = s.cell a
  outside : s.Outside (if s.takesInput n then s.readInput.state else s) t
    (if 11 ≤ n ∧ s.wrFlags1 = false then [⟨0x0A, s.cell 0xEA⟩] else [])

theorem exchanged_dataAddr {i : Nat} (h : i < 256) :
    exchanged n (BitVec.ofNat 8 i) ↔ i < n ∨ (0xE0 ≤ i ∧ i < 0xE0 + n) := by
  rw [exchanged, dataAddr_toNat h]

/-- WRFLAGS stands in page 15, which is not exchanged. -/
theorem Exchanged.wrFlags1 (h : Exchanged s t n) (hn : n ≤ 16) (hcfg : t.cfg = s.cfg) (hvalid : s.cfg.Valid) :
    t.wrFlags1 = s.wrFlags1 := by
  obtain ⟨-, -, hpage, -⟩ := hvalid
  have hpage := inPage15_iff.mp hpage
  rw [State.wrFlags1, State.wrFlags1, hcfg, h.other _ (by unfold exchanged; omega)]

theorem Exchanged.zero : Exchanged s s 0 :=
  ⟨by simp, by simp, fun _ _ => rfl, by simp [State.Outside, State.takesInput]⟩

/-- What a read of the IN port gives and takes depends on the inputs and the draws alone (R58). -/
theorem State.readInput_congr (hin : t.inputs = s.inputs) (hdraws : t.draws = s.draws) :
    t.readInput.value = s.readInput.value ∧ t.readInput.state.inputs = s.readInput.state.inputs ∧
      t.readInput.state.draws = s.readInput.state.draws := by
  cases hl : s.inputs with
  | nil => rw [s.readInput_nil hl, t.readInput_nil (hin.trans hl)]; simp [State.drawNibble, hin, hdraws]
  | cons x rest => rw [s.readInput_cons hl, t.readInput_cons (hin.trans hl)]; simp [hdraws]

/-- What reading register `n` gives and takes after the registers below it are exchanged. -/
theorem Exchanged.memRead (h : Exchanged s t n) (hn : n < 16) (hwr : t.wrFlags1 = s.wrFlags1) :
    let a := t.memRead (BitVec.ofNat 8 n)
    a.value = (if n = 11 ∧ s.wrFlags1 = false then s.readInput.value else s.cell (BitVec.ofNat 8 n)) ∧
    a.state.inputs = (if s.takesInput (n + 1) then s.readInput.state else s).inputs ∧
    a.state.draws = (if s.takesInput (n + 1) then s.readInput.state else s).draws := by
  intro a
  obtain ⟨hin, hdraws, -⟩ := h.outside
  by_cases hport : n = 11 ∧ s.wrFlags1 = false
  · obtain ⟨rfl, hlow⟩ := hport
    have hport : t.inAddr = BitVec.ofNat 8 11 := (t.ports_low (hwr.trans hlow)).1
    have hread : a = t.readInput := (congrArg t.memRead hport.symm).trans t.memRead_in
    have htaken : s.takesInput 11 = false := rfl
    have htakes : s.takesInput 12 = true := by simp [State.takesInput, hlow]
    rw [htaken] at hin hdraws
    rw [hread, htakes, if_pos ⟨rfl, hlow⟩]
    exact State.readInput_congr hin hdraws
  · have hne : BitVec.ofNat 8 n ≠ t.inAddr := by
      cases hw : t.wrFlags1
      · rw [(t.ports_low hw).1]
        exact fun e => hport ⟨(dataAddr_inj (by omega) (by simp)).mp e, hwr ▸ hw⟩
      · rw [(t.ports_high hw).1]
        exact fun e => by have := (dataAddr_inj (j := 0xFB) (by omega) (by simp)).mp e; omega
    have hpage : inPage15 (BitVec.ofNat 8 n) = false := inPage15_below (by rw [dataAddr_toNat (by omega)]; omega)
    have hread : a = ⟨t.cell (BitVec.ofNat 8 n), t⟩ := t.memRead_plain hne (by simp [State.drawsAt, hpage])
    have htakes : s.takesInput (n + 1) = s.takesInput n := by
      cases hw : s.wrFlags1
      · have : n ≠ 11 := fun e => hport ⟨e, hw⟩
        simp only [State.takesInput, hw, Bool.not_false, Bool.and_true, decide_eq_decide]
        omega
      · simp [State.takesInput, hw]
    rw [hread, htakes, if_neg hport]
    exact ⟨h.other _ (by rw [exchanged_dataAddr (by omega)]; omega), hin, hdraws⟩

/-- The event of writing register `n` while the registers are exchanged: OUT is one of them while it is in page 0 (R58). -/
theorem Exchanged.events (h : Exchanged s t n) (hn : n < 16) (hwr : t.wrFlags1 = s.wrFlags1) :
    (if 11 ≤ n ∧ s.wrFlags1 = false then [⟨0x0A, s.cell 0xEA⟩] else []) ++
      t.eventsOf (BitVec.ofNat 8 n) (t.cell (BitVec.ofNat 8 (0xE0 + n))) =
    if 11 ≤ n + 1 ∧ s.wrFlags1 = false then [(⟨0x0A, s.cell 0xEA⟩ : OutEvent)] else [] := by
  have hpage : ¬0xF0 ≤ (BitVec.ofNat 8 n).toNat := by rw [dataAddr_toNat (by omega)]; omega
  rw [State.eventsOf_eq]
  cases hw : s.wrFlags1
  · have hout : BitVec.ofNat 8 n = t.outAddr ↔ n = 10 := by
      rw [(t.ports_low (hwr.trans hw)).2]; exact dataAddr_inj (by omega) (by simp)
    simp only [hout, hpage, or_false, and_true]
    rcases lt_trichotomy n 10 with hn | rfl | hn
    · rw [if_neg (by omega), if_neg (by omega), if_neg (by omega), List.append_nil]
    · rw [if_neg (by omega), if_pos rfl, if_pos (by omega), h.other _ (by rw [exchanged_dataAddr] <;> omega)]
      rfl
    · rw [if_pos (by omega), if_neg (by omega), if_pos (by omega), List.append_nil]
  · have hout : BitVec.ofNat 8 n ≠ t.outAddr := by
      rw [(t.ports_high (hwr.trans hw)).2]
      exact fun e => by have := (dataAddr_inj (j := 0xFA) (by omega) (by simp)).mp e; omega
    rw [if_neg (not_or.mpr ⟨hout, hpage⟩)]
    simp

/-- One more register exchanged. -/
theorem Exchanged.succ (h : Exchanged s t n) (hn : n < 16) (hwr : t.wrFlags1 = s.wrFlags1) :
    Exchanged s (t.exchangeOne n) (n + 1) := by
  obtain ⟨hlow, hhigh, hother, hin, hdraws, hout⟩ := t.exchangeOne_cells hn
  obtain ⟨hvalue, hinputs, hdrawn⟩ := h.memRead hn hwr
  have hkept : ∀ i < 256, i ≠ n → i ≠ 0xE0 + n →
      (t.exchangeOne n).cell (BitVec.ofNat 8 i) = t.cell (BitVec.ofNat 8 i) := fun i hi hni hei =>
    hother _ (by rwa [Ne, dataAddr_inj hi (by omega)]) (by rwa [Ne, alternateAddr, dataAddr_inj hi (by omega)])
  have hfresh : ∀ i < 256, n ≤ i → i < 0xE0 ∨ 0xE0 + n ≤ i →
      t.cell (BitVec.ofNat 8 i) = s.cell (BitVec.ofNat 8 i) := fun i hi hni hei =>
    h.other _ (by rw [exchanged_dataAddr hi]; omega)
  refine ⟨fun i hi => ?low, fun i hi => ?high, fun a ha => ?other, hin.trans hinputs, hdraws.trans hdrawn, ?events⟩
  case low =>
    rcases Nat.lt_succ_iff_lt_or_eq.mp hi with hi | rfl
    · rw [hkept i (by omega) (by omega) (by omega), h.low i hi]
    · exact hlow.trans (hfresh _ (by omega) (by omega) (by omega))
  case high =>
    rcases Nat.lt_succ_iff_lt_or_eq.mp hi with hi | rfl
    · rw [hkept _ (by omega) (by omega) (by omega), h.high i hi]
    · exact hhigh.trans hvalue
  case other =>
    have ha' : ¬exchanged n a := fun hex => ha (by unfold exchanged at hex ⊢; omega)
    refine (hother a ?_ ?_).trans (h.other a ha') <;> rintro rfl <;> apply ha
    · exact (exchanged_dataAddr (by omega)).mpr (by omega)
    · exact (exchanged_dataAddr (by omega)).mpr (by omega)
  case events =>
    obtain ⟨-, -, houtputs⟩ := h.outside
    rw [hout, houtputs, List.append_assoc]
    exact congrArg _ (h.events hn hwr)

theorem State.exchange_exchanged (s : State) (n : Nat) (hn : n ≤ 16) (hvalid : s.cfg.Valid) :
    Exchanged s (s.exchange n) n := by
  induction n with
  | zero => exact .zero
  | succ n ih =>
    have hex := ih (by omega)
    exact hex.succ hn (hex.wrFlags1 (by omega) (s.exchange_cfg n) hvalid)

end Exchange

/-- Settles O33: the exchange does it, register by register. -/
theorem exchangeRegisters : Obligations.ExchangeRegisters := by
  intro n s hwf hvalid hscope takesInput
  obtain ⟨-, hn⟩ := wellFormed_exr.mp hwf
  have hex := s.exchange_exchanged n hn hvalid
  have hallowed : ¬(s.cfg.pcwriteScope = .movOnlyElseRefuse ∧ 13 ≤ n) := fun ⟨hrefuses, hmany⟩ => by
    have := hscope hrefuses; omega
  refine ⟨(s.exchange n).advance, by rw [exec_exr, if_neg hallowed], ?_, by simp [State.SameFlags], hex.low, hex.high,
    ⟨hex.other, by simp, by simp, by simp⟩, hex.outside⟩
  simp [State.npc]

/-- Settles O34: what the first EXR put into the cells, the second puts back, and WRFLAGS is not among them. -/
theorem exchangeTwiceRestores : Obligations.ExchangeTwiceRestores := by
  intro n s hwf hvalid hscope hnoInput
  obtain ⟨-, hn⟩ := wellFormed_exr.mp hwf
  obtain ⟨t, hfirst, htpc, -, hlow, hhigh, ⟨hother, -, -, hcfg⟩, hout⟩ := exchangeRegisters n s hwf hvalid hscope
  have hwr : t.wrFlags1 = s.wrFlags1 := Exchanged.wrFlags1 ⟨hlow, hhigh, hother, hout⟩ hn hcfg hvalid
  obtain ⟨u, hsecond, hupc, -, hlow', hhigh', ⟨hother', -⟩, -⟩ :=
    exchangeRegisters n t hwf (hcfg ▸ hvalid) (hcfg ▸ hscope)
  have hnoInput' : ∀ i < n, ¬(i = 11 ∧ s.wrFlags1 = false) := fun i hi ⟨hi11, hwr0⟩ => by
    rcases hnoInput with hfew | hwr1
    · omega
    · simp [hwr0] at hwr1
  refine ⟨u, (execAll_cons hfirst).trans (execAll_one hsecond), ?pc, fun a => ?cells⟩
  case pc => rw [hupc, htpc, add_assoc]; rfl
  case cells =>
    by_cases ha : exchanged n a
    · rcases ha with hreg | ⟨halt, halt'⟩
      · have hback := (hlow' _ hreg).trans (hhigh _ hreg)
        rwa [if_neg (hnoInput' _ hreg), BitVec.ofNat_toNat, BitVec.setWidth_eq] at hback
      · obtain ⟨i, hi⟩ := Nat.exists_eq_add_of_le halt
        have hin : i < n := by omega
        have hback := hhigh' i hin
        rw [hwr, if_neg (hnoInput' i hin), hlow i hin, ← hi, BitVec.ofNat_toNat, BitVec.setWidth_eq] at hback
        exact hback
    · exact (hother' a ha).trans (hother a ha)

/-! #### BIT, BSET, BCLR and BTG -/

/-- Settles O35: one read, Z, and the draw of C where the parameter asks for it. -/
theorem testBit : Obligations.TestBit := by
  intro g m s a r
  have ha : s.rgReadAddr g = a := by cases g <;> rfl
  have hz : (!bitOf r.value m) = decide (r.value.getLsbD m.toNat = false) := by
    cases h : r.value.getLsbD m.toNat <;> simp [bitOf, h]
  have hc : r.state.c = s.c := s.memRead_c a
  have hpc : r.state.npc = s.pc + 1 := congrArg (· + 1) (s.memRead_pc a)
  simp only [exec_bit, execBit, ha, State.drawC_if]
  rw [← hz, ← hc, ← hpc]
  rfl

/-- The mask has bit M alone (R173). -/
theorem getLsbD_bitMask : ∀ (m : BitVec 2), ∀ k < 4, (bitMask m).getLsbD k = decide (k = m.toNat) := by decide

/-- The three ways of R173 to R175 to change bit M: the bit as named, the other bits as they were. -/
theorem getLsbD_or_bitMask (v : Nibble) (m : BitVec 2) {k : Nat} (hk : k < 4) :
    (v ||| bitMask m).getLsbD k = if k = m.toNat then true else v.getLsbD k := by
  rw [BitVec.getLsbD_or, getLsbD_bitMask m k hk]
  split_ifs with h <;> simp [h]

@[inherit_doc getLsbD_or_bitMask]
theorem getLsbD_and_not_bitMask (v : Nibble) (m : BitVec 2) {k : Nat} (hk : k < 4) :
    (v &&& ~~~bitMask m).getLsbD k = if k = m.toNat then false else v.getLsbD k := by
  rw [BitVec.getLsbD_and, BitVec.getLsbD_not, getLsbD_bitMask m k hk]
  split_ifs with h <;> simp [h, hk]

@[inherit_doc getLsbD_or_bitMask]
theorem getLsbD_xor_bitMask (v : Nibble) (m : BitVec 2) {k : Nat} (hk : k < 4) :
    (v ^^^ bitMask m).getLsbD k = if k = m.toNat then !v.getLsbD k else v.getLsbD k := by
  rw [BitVec.getLsbD_xor, getLsbD_bitMask m k hk]
  split_ifs with h <;> simp [h]

/-- Settles O36: one write of the operand's cell, with the bit set, cleared or inverted. -/
theorem changeBit : Obligations.ChangeBit := by
  intro g m s a changes
  have ha : s.rgWriteAddr g = a := by cases g <;> rfl
  have hwrote (f : Nibble → Nibble) := s.changeRg_wrote g f
  simp only [ha] at hwrote
  obtain ⟨hsetw, hsetf⟩ := hwrote fun v => v ||| bitMask m
  obtain ⟨hclrw, hclrf⟩ := hwrote fun v => v &&& ~~~bitMask m
  obtain ⟨htgw, htgf⟩ := hwrote fun v => v ^^^ bitMask m
  exact ⟨⟨_, _, exec_bset g m s, hsetw, hsetf, fun _ hk => getLsbD_or_bitMask _ m hk⟩,
    ⟨_, _, exec_bclr g m s, hclrw, hclrf, fun _ hk => getLsbD_and_not_bitMask _ m hk⟩,
    ⟨_, _, exec_btg g m s, htgw, htgf, fun _ hk => getLsbD_xor_bitMask _ m hk⟩⟩

/-! #### Five RRC -/

/-- One RRC on the five-bit ring of C and the register (R176). -/
def rotateRing (cv : Bool × Nibble) : Bool × Nibble := (cv.2.getLsbD 0, rotateRight cv.1 cv.2)

/-- Five rotations of five bits. -/
theorem rotateRing_five : ∀ (c : Bool) (v : Nibble), rotateRing^[5] (c, v) = (c, v) := by decide

/-- Writing one register moves neither the IN port nor which writes are plain: WRFLAGS stands in page 15. -/
theorem State.SameBut.inAddr {s t : State} {y : RegNum} (h : s.SameBut t fun b => b = regAddr y) (hvalid : s.cfg.Valid) :
    t.inAddr = s.inAddr := by
  obtain ⟨hcell, -, -, hcfg⟩ := h
  obtain ⟨-, -, hpage, -⟩ := hvalid
  have hne : s.cfg.wrflagsAddr ≠ regAddr y := fun e => by simp [e, regAddr_not_page15] at hpage
  rw [State.inAddr, State.inAddr, State.wrFlags1, State.wrFlags1, hcfg, hcell _ hne]

/-- One RRC of a register other than IN turns the ring by one and leaves every other cell. -/
theorem exec_rrc_ring {y : RegNum} {s : State} (hplain : s.PlainDest y) (hin : regAddr y ≠ s.inAddr) :
    ∃ t, exec (.rrc y) s = .next t ∧ (t.c, t.cell (regAddr y)) = rotateRing (s.c, s.cell (regAddr y)) ∧
      s.SameBut t fun b => b = regAddr y := by
  obtain ⟨t, hnext, ⟨hcell, -, hsame, -⟩, hc, -⟩ := execRrc_plain hplain
  rw [s.readReg_cell hin] at hcell hc
  exact ⟨t, (exec_rrc y s).trans hnext, Prod.ext hc hcell, hsame⟩

/-- Any number of RRC of a register other than IN. -/
theorem execAll_rrc_ring {y : RegNum} (k : Nat) {s : State} (hplain : s.PlainDest y) (hin : regAddr y ≠ s.inAddr)
    (hvalid : s.cfg.Valid) :
    ∃ t, execAll (List.replicate k (.rrc y)) s = .next t ∧
      (t.c, t.cell (regAddr y)) = rotateRing^[k] (s.c, s.cell (regAddr y)) ∧
      ∀ b, b ≠ regAddr y → t.cell b = s.cell b := by
  induction k generalizing s with
  | zero => exact ⟨s, rfl, rfl, fun _ _ => rfl⟩
  | succ k ih =>
    obtain ⟨t, hfirst, hring, hsame⟩ := exec_rrc_ring hplain hin
    have hport := hsame.inAddr hvalid
    obtain ⟨hcell, -, -, hcfg⟩ := hsame
    obtain ⟨u, hrest, hring', hcell'⟩ := ih (s := t) (by rwa [State.PlainDest, hcfg]) (by rwa [hport]) (by rwa [hcfg])
    refine ⟨u, (execAll_cons hfirst).trans hrest, ?_, fun b hb => (hcell' b hb).trans (hcell b hb)⟩
    rw [hring', hring, Function.iterate_succ_apply]

/-- Settles O38. -/
theorem fiveRotationsRestore : Obligations.FiveRotationsRestore := by
  intro y s hplain hin hvalid
  obtain ⟨t, hrun, hring, hother⟩ := execAll_rrc_ring 5 hplain hin hvalid
  obtain ⟨hc, hcell⟩ := Prod.mk.inj (hring.trans (rotateRing_five _ _))
  refine ⟨t, hrun, hc, fun a => ?_⟩
  rcases eq_or_ne a (regAddr y) with rfl | ha
  exacts [hcell, hother a ha]

end Sys2Proof.Machine

/-! ### The settings that the source leaves open (41_mov.md R129, 20_memory.md R59)

The eleven register forms that R129 leaves open have one shape: they work, and end at their destination by `State.endAt`.
Their work does not see `PCWRITE_SCOPE`, so that its settings differ in the end alone. -/

namespace Sys2Proof.Machine

/-- The state under another `PCWRITE_SCOPE`. -/
def State.setScope (s : State) (p : PcwriteScope) : State := { s with cfg := { s.cfg with pcwriteScope := p } }

theorem unread_setScope (p : PcwriteScope) : Unread fun s => s.setScope p :=
  ⟨fun _ => rfl, fun _ => rfl, fun _ => rfl, fun _ => rfl, fun _ _ => rfl, fun _ _ => rfl⟩

/-- An open register form in the state `s`: its work is done in `u`, where it has written `x` to its destination `d` and
ends; under another `PCWRITE_SCOPE` it does the same work. -/
structure OpenEnd (i : Instr) (d : RegNum) (s u : State) (x : Nibble) (pc : ProgAddr) : Prop where
  exec_eq : exec i s = u.endAt d x pc
  exec_setScope (p : PcwriteScope) : exec i (s.setScope p) = (u.setScope p).endAt d x pc
  pc : u.pc = s.pc
  cfg : u.cfg = s.cfg
  cell : u.cell (regAddr d) = x

section Forms
variable {i : Instr} {x y d : RegNum}

theorem openEnd_arith (hd : some x = some d) (f : Bool → Nibble → Nibble → AluResult)
    (hexec : ∀ s, exec i s = s.arith x y (f s.c)) (s : State) : ∃ u r pc, OpenEnd i d s u r pc := by
  obtain rfl := Option.some.inj hd
  let r := f s.c (s.readPair x y).x (s.readPair x y).y
  refine ⟨((s.readPair x y).state.writeReg x r.r).setFlags r.c r.z r.v, r.r, s.npc, hexec s, fun p => ?_, by simp, by simp,
    State.cell_writeReg_same _ _ _⟩
  rw [hexec, State.arith, (unread_setScope p).readPair]
  rfl

theorem openEnd_logic (hd : some x = some d) {f : Nibble → Nibble → Nibble} (hexec : ∀ s, exec i s = s.logic x y f)
    (s : State) : ∃ u r pc, OpenEnd i d s u r pc := by
  obtain rfl := Option.some.inj hd
  let r := f (s.readPair x y).x (s.readPair x y).y
  refine ⟨((s.readPair x y).state.writeReg x r).setZ (zeroFlag r), r, s.npc, hexec s, fun p => ?_, by simp, by simp,
    State.cell_writeReg_same _ _ _⟩
  rw [hexec, State.logic, (unread_setScope p).readPair]
  rfl

end Forms

/-- Every open register form has such an end. -/
theorem exec_openDest {i : Instr} {d : RegNum} (h : i.openDest = some d) (s : State) : ∃ u x pc, OpenEnd i d s u x pc := by
  have hread (p : PcwriteScope) := (unread_setScope p).readReg s
  cases i with
  | addRxRy x y => exact openEnd_arith h (fun _ a b => addFlags a b false) (exec_addRxRy x y) s
  | adcRxRy x y => exact openEnd_arith h (fun c a b => addFlags a b c) (exec_adcRxRy x y) s
  | subRxRy x y => exact openEnd_arith h (fun _ a b => subFlags a b true) (exec_subRxRy x y) s
  | sbbRxRy x y => exact openEnd_arith h (fun c a b => subFlags a b c) (exec_sbbRxRy x y) s
  | orRxRy x y => exact openEnd_logic h (exec_orRxRy x y) s
  | andRxRy x y => exact openEnd_logic h (exec_andRxRy x y) s
  | xorRxRy x y => exact openEnd_logic h (exec_xorRxRy x y) s
  | inc y =>
    obtain rfl : y = d := Option.some.inj h
    refine ⟨_, _, _, exec_inc_eq y s, fun p => ?_, by simp, by simp, State.cell_writeReg_same _ _ _⟩
    rw [exec_inc_eq, hread]
    rfl
  | dec y =>
    obtain rfl : y = d := Option.some.inj h
    refine ⟨_, _, _, exec_dec y s, fun p => ?_, by simp, by simp, State.cell_writeReg_same _ _ _⟩
    rw [exec_dec, execDec, hread]
    rfl
  | dsz y =>
    obtain rfl : y = d := Option.some.inj h
    refine ⟨_, _, _, exec_dsz y s, fun p => ?_, by simp, by simp, State.cell_writeReg_same _ _ _⟩
    rw [exec_dsz, execDsz, hread]
    rfl
  | rrc y =>
    obtain rfl : y = d := Option.some.inj h
    refine ⟨_, _, _, exec_rrc y s, fun p => ?_, by simp, by simp, State.cell_writeReg_same _ _ _⟩
    rw [exec_rrc, execRrc, hread]
    rfl
  | _ => cases h

/-! #### Refusals -/

section Refusals
variable {s : State}

/-- The end of an open form at JSR or PCL where the setting refuses it. -/
theorem State.endAt_refused {d : RegNum} (x : Nibble) (pc : ProgAddr) (hd : isPcReg d = true)
    (hscope : s.cfg.pcwriteScope = .movOnlyElseRefuse) : s.endAt d x pc = .refused .pcwriteUnspecified := by
  simp [State.endAt, hd, hscope]

theorem State.storeR0_pcwriteRefused {a : DataAddr} (hscope : s.cfg.pcwriteScope = .movOnlyElseRefuse)
    (ha : a = 0x0C ∨ a = 0x0D) : s.storeR0 a = .refused .pcwriteUnspecified := by
  have hrefuses : s.pcwriteRefuses a = true := by
    rcases ha with rfl | rfl <;> simp [State.pcwriteRefuses, hscope, regAddr, RegNum.jsr, RegNum.pcl]
  rw [State.storeR0, if_pos hrefuses]

/-- The strict setting refuses a page-15 access but to three cells (R59). -/
theorem State.sfrRefuses_iff {a : DataAddr} : s.sfrRefuses a = true ↔
    s.cfg.sfrModel = .strict ∧ 0xF0 ≤ a.toNat ∧ a ≠ 0xFA ∧ a ≠ 0xFB ∧ a ≠ s.cfg.wrflagsAddr := by
  simp [State.sfrRefuses, inPage15_iff, and_assoc]

theorem State.loadR0_sfrRefused {a : DataAddr} (h : s.sfrRefuses a = true) : s.loadR0 a = .refused .sfrUnmodelled := by
  rw [State.loadR0, if_pos h]

theorem State.storeR0_sfrRefused {a : DataAddr} (h : s.sfrRefuses a = true) : s.storeR0 a = .refused .sfrUnmodelled := by
  obtain ⟨-, hpage, -⟩ := State.sfrRefuses_iff.mp h
  have hreg (i : RegNum) : a ≠ regAddr i := by
    rintro rfl
    simp [← inPage15_iff, regAddr_not_page15] at hpage
  rw [State.storeR0, if_neg (by simp [State.pcwriteRefuses, hreg]), if_pos h]

end Refusals

/-- Settles O44. -/
theorem openPcWritesRefused : Obligations.OpenPcWritesRefused := by
  refine fun s hscope => ⟨fun i d hd hpc => ?form, fun nn hnn => ?direct, fun x y ha => ?indirect, fun n hn => ?exchange⟩
  case form =>
    obtain ⟨u, x, pc, hu⟩ := exec_openDest hd s
    rw [hu.exec_eq, State.endAt_refused x pc hpc (hu.cfg ▸ hscope)]
  case direct => exact (exec_movNnR0 nn s).trans (State.storeR0_pcwriteRefused hscope hnn)
  case indirect =>
    exact (exec_movXyR0 x y s).trans (State.storeR0_pcwriteRefused ((s.readPair_cfg x y).symm ▸ hscope) ha)
  case exchange => rw [exec_exr, if_pos ⟨hscope, hn⟩]

/-- Settles O46: whether the setting refuses is a matter of the address and the parameters, which reading RX and RY
keeps. -/
theorem strictPage15Refused : Obligations.StrictPage15Refused := by
  intro s a hstrict hpage hout hin hwr
  have hrefuses (u : State) (hcfg : u.cfg = s.cfg) : u.sfrRefuses a = true :=
    State.sfrRefuses_iff.mpr (hcfg ▸ ⟨hstrict, hpage, hout, hin, hwr⟩)
  refine ⟨State.storeR0_sfrRefused (hrefuses s rfl), State.loadR0_sfrRefused (hrefuses s rfl), fun x y ha => ?_⟩
  have hpair := hrefuses (s.readPair x y).state (s.readPair_cfg x y)
  rw [exec_movXyR0, exec_movR0Xy, pairAddr, ha]
  exact ⟨State.storeR0_sfrRefused hpair, State.loadR0_sfrRefused hpair⟩

/-! #### Transfers -/

section Transfers
variable (u : State) (x : Nibble)

/-- The end of an open form at JSR or PCL where every register write transfers (R129). -/
theorem State.endAt_transfers {d : RegNum} (pc : ProgAddr) (hd : isPcReg d = true)
    (hscope : u.cfg.pcwriteScope = .allRegisterWrites) : u.endAt d x pc = u.transfer d x := by
  simp [State.endAt, hd, hscope]

theorem State.transfer_pcl : u.transfer RegNum.pcl x =
    .next (u.setPc (u.cell 0x0F ++ u.cell 0x0E ++ x)) := if_pos rfl

theorem State.transfer_jsr : u.transfer RegNum.jsr x = u.subroutineCall x := if_neg (by decide)

end Transfers

/-- Settles O45: the work is the same under both settings, and its end is plain under the one and the call or jump under the
other. -/
theorem openPcWritesTransfer : Obligations.OpenPcWritesTransfer := by
  intro s i d hscope hd plain
  obtain ⟨u, x, pc, hexec, hplain, hpc, hcfg, hcell⟩ := exec_openDest hd s
  have hplain : exec i plain = (u.setScope .movOnlyElsePlain).endAt d x pc := hplain .movOnlyElsePlain
  rw [hexec, hplain, ← hcfg, ← hpc]
  cases hd : isPcReg d
  · have hne : d ≠ RegNum.pcl ∧ d ≠ RegNum.jsr := by simpa [isPcReg, and_comm] using hd
    rw [State.endAt_other _ hd, State.endAt_other _ hd]
    exact ⟨_, rfl, fun hpcl => absurd hpcl hne.1, fun hjsr => absurd hjsr hne.2, fun _ => rfl⟩
  · rw [State.endAt_plainPc _ hd rfl, State.endAt_transfers u x pc hd (hcfg ▸ hscope)]
    refine ⟨_, rfl, fun hpcl => ?jump, fun hjsr => ?call, by simp⟩
    case jump =>
      subst hpcl hcell
      exact u.transfer_pcl _
    case call =>
      subst hjsr hcell
      exact u.transfer_jsr _

end Sys2Proof.Machine

/-! ### Flag V is read by no instruction (10_state.md R28)

Every instruction is followed from a state and from the same state with another V. Most carry the other V to their end; ADD,
ADC, SUB and SBB, and CP and ADD R0,N where their parameter says so, write over it. -/

namespace Sys2Proof.Machine

theorem AgreeButV.refl (r : Result) : AgreeButV r r := by
  cases r <;> rfl

theorem agreeButV_next (t : State) (b : Bool) : AgreeButV (.next t) (.next (t.setV b)) := rfl

theorem agreeButV_advance (t : State) (b : Bool) : AgreeButV (.next t.advance) (.next (t.setV b).advance) := rfl

section
variable (s : State) (b : Bool)

@[simp] theorem State.pcwriteRefuses_setV (a : DataAddr) : (s.setV b).pcwriteRefuses a = s.pcwriteRefuses a := rfl

@[simp] theorem State.sfrRefuses_setV (a : DataAddr) : (s.setV b).sfrRefuses a = s.sfrRefuses a := rfl

@[simp] theorem State.holds_setV (f : Cond) : (s.setV b).holds f = s.holds f := by cases f <;> rfl

/-- ADD, ADC, SUB and SBB write V whatever it was. -/
theorem State.arith_setV (x y : RegNum) (f : Nibble → Nibble → AluResult) :
    AgreeButV (s.arith x y f) ((s.setV b).arith x y f) := by
  rw [State.arith, State.arith, State.readPair_setV]
  exact AgreeButV.refl _

theorem State.logic_setV (x y : RegNum) (f : Nibble → Nibble → Nibble) :
    AgreeButV (s.logic x y f) ((s.setV b).logic x y f) := by
  simp only [State.logic, State.readPair_setV]
  exact State.endAt_setV _ b x _ s.npc

theorem State.logicR0_setV (f : Nibble → Nibble) (c : Bool) : AgreeButV (s.logicR0 f c) ((s.setV b).logicR0 f c) := by
  simp only [State.logicR0, State.readReg_setV]
  exact agreeButV_next _ b

theorem State.changeRg_setV (g : Rg) (f : Nibble → Nibble) : (s.setV b).changeRg g f = (s.changeRg g f).setV b := by
  rw [State.changeRg_cells, State.changeRg_cells]
  rfl

theorem State.storeR0_setV (a : DataAddr) : AgreeButV (s.storeR0 a) ((s.setV b).storeR0 a) := by
  simp only [State.storeR0, State.readReg_setV, State.pcwriteRefuses_setV, State.sfrRefuses_setV]
  split_ifs
  · rfl
  · rfl
  · exact agreeButV_next _ b

theorem State.loadR0_setV (a : DataAddr) : AgreeButV (s.loadR0 a) ((s.setV b).loadR0 a) := by
  simp only [State.loadR0, State.memRead_setV, State.sfrRefuses_setV]
  split_ifs
  · rfl
  · exact agreeButV_next _ b

/-- V written or kept by a parameter. -/
theorem agreeButV_setV_if (p x : Bool) : AgreeButV (.next (if p then s.setV x else s).advance)
    (.next (if p then (s.setV b).setV x else s.setV b).advance) := by
  cases p <;> rfl

theorem State.writeReg_setV (i : RegNum) (x : Nibble) : (s.setV b).writeReg i x = (s.writeReg i x).setV b := rfl

theorem State.readReturn_setV (k : Nat) : (s.setV b).readReturn k = ((s.readReturn k).1, (s.readReturn k).2.setV b) := by
  simp only [State.readReturn, State.memRead_setV]

theorem State.rgReadAddr_setV (g : Rg) : (s.setV b).rgReadAddr g = s.rgReadAddr g := by cases g <;> rfl

/-- C drawn or kept by a parameter. -/
theorem agreeButV_drawC_if (p : Bool) : AgreeButV (.next (if p then s.drawC else s).advance)
    (.next (if p then (s.setV b).drawC else s.setV b).advance) := by
  cases p <;> rfl

end

/-- Settles O59. -/
theorem noInstructionReadsV : Obligations.NoInstructionReadsV := by
  intro i s b
  cases i with
  | addRxRy x y => simpa only [exec_addRxRy] using s.arith_setV b x y _
  | adcRxRy x y => simpa only [exec_adcRxRy, State.setV_c] using s.arith_setV b x y _
  | subRxRy x y => simpa only [exec_subRxRy] using s.arith_setV b x y _
  | sbbRxRy x y => simpa only [exec_sbbRxRy, State.setV_c] using s.arith_setV b x y _
  | orRxRy x y => simpa only [exec_orRxRy] using s.logic_setV b x y _
  | andRxRy x y => simpa only [exec_andRxRy] using s.logic_setV b x y _
  | xorRxRy x y => simpa only [exec_xorRxRy] using s.logic_setV b x y _
  | movRxRy x y =>
    rw [exec_movRxRy, exec_movRxRy, State.readReg_setV]
    exact State.endMov_setV _ b x _
  | movRxN x n => exact State.endMov_setV _ b x n
  | movXyR0 x y =>
    rw [exec_movXyR0, exec_movXyR0, State.readPair_setV]
    exact State.storeR0_setV _ b _
  | movR0Xy x y =>
    rw [exec_movR0Xy, exec_movR0Xy, State.readPair_setV]
    exact State.loadR0_setV _ b _
  | movNnR0 nn => exact s.storeR0_setV b nn
  | movR0Nn nn => exact s.loadR0_setV b nn
  | movPcNn nn => exact agreeButV_next _ b
  | jr nn => exact agreeButV_next _ b
  | cp n =>
    simp only [exec_cp, execCp, State.readReg_setV]
    exact agreeButV_setV_if _ b s.cfg.cpWritesV _
  | addR0N n =>
    simp only [exec_addR0N, execAddR0N, State.readReg_setV]
    exact agreeButV_setV_if _ b s.cfg.addiWritesV _
  | inc y =>
    simp only [exec_inc_eq, State.readReg_setV]
    exact State.endAt_setV _ b y _ s.npc
  | dec y =>
    simp only [exec_dec, execDec, State.readReg_setV]
    exact State.endAt_setV _ b y _ s.npc
  | dsz y =>
    simp only [exec_dsz, execDsz, State.readReg_setV]
    exact State.endAt_setV _ b y _ _
  | orR0N n => simpa only [exec_orR0N] using s.logicR0_setV b _ true
  | andR0N n => simpa only [exec_andR0N] using s.logicR0_setV b _ false
  | xorR0N n => simpa only [exec_xorR0N, State.setV_c] using s.logicR0_setV b _ (!s.c)
  | exr n =>
    simp only [exec_exr, State.exchange_setV, State.setV_cfg]
    split_ifs
    · rfl
    · exact agreeButV_advance _ b
  | bit g m =>
    simp only [exec_bit, execBit, State.rgReadAddr_setV, State.memRead_setV]
    exact agreeButV_drawC_if _ b s.cfg.bitWritesC
  | bset g m => rw [exec_bset, exec_bset, State.changeRg_setV]; exact agreeButV_next _ b
  | bclr g m => rw [exec_bclr, exec_bclr, State.changeRg_setV]; exact agreeButV_next _ b
  | btg g m => rw [exec_btg, exec_btg, State.changeRg_setV]; exact agreeButV_next _ b
  | rrc y =>
    simp only [exec_rrc, execRrc, State.readReg_setV]
    exact State.endAt_setV _ b y _ s.npc
  | ret n =>
    rw [exec_ret, exec_ret]
    by_cases hsp : s.sp = 0
    · rw [execRet_level0 n hsp, execRet_level0 n (s := s.setV b) hsp]
      rfl
    · rw [execRet_above n hsp, execRet_above n (s := s.setV b) hsp, State.writeReg_setV, State.readReturn_setV]
      exact agreeButV_next _ b
  | skip f m =>
    rw [exec_skip, exec_skip, State.holds_setV]
    exact agreeButV_next _ b

end Sys2Proof.Machine
